-- ==== Sys2Proof/Word.lean ====
section
/-! DEFINITION. The two word types of the machine (00_scope.md R7, R12). -/

namespace Sys2Proof

/-- An 8-bit byte (00_scope.md R12). -/
abbrev Byte := BitVec 8

/-- A 16-bit word: every register, offset, segment value and port number (00_scope.md R7). -/
abbrev Word := BitVec 16

end Sys2Proof
end

