-- ==== Sys2Proof/Config.lean ====
section
/-! DEFINITION. The machine's named parameters (00_scope.md R8 to R10) and the values the spec
leaves open as draws. The parameters are a record that State carries and no operation changes, so
that a statement about every state is a statement about every setting (log entry 4). The draws are
constants without a body: nothing can be proved of their values. -/

namespace Sys2Proof

/-- A row of the opcode map as the parameters of 00_scope.md R10 name it: the opcode byte and, for
a group row, the extension in the ModRM reg field (30_encoding.md R180, R182). -/
structure RowId where
  op  : Byte
  ext : Option (BitVec 3)
deriving DecidableEq, Repr

/-- The parameters of 00_scope.md R8 to R10. `biosSize` is the length of `BIOS_IMAGE`;
`removedRows` is the complement of `IMPLEMENTED`; `regOnlyRows` lists the rows whose
`MEM_FORM_IMPLEMENTED` is false. -/
structure Config where
  /-- `RAM_SIZE` (R8, D10). -/
  ramSize : Nat
  /-- `BIOS_BASE` (R8). -/
  biosBase : Nat
  /-- The length of `BIOS_IMAGE` (R8, R87). -/
  biosSize : Nat
  /-- `BIOS_WRITABLE` (R8, D12). -/
  biosWritable : Bool
  /-- `A20_WRAP` (R8, D8). -/
  a20Wrap : Bool
  /-- `BOOT_CS` (R9, D14). -/
  bootCs : Word
  /-- `BOOT_IP` (R9, D14). -/
  bootIp : Word
  /-- `FLAGS_ALWAYS_SET` (R9, D4). -/
  flagsAlwaysSet : Word
  /-- The admitted rows left out of `IMPLEMENTED` (R10, D1). -/
  removedRows : List RowId
  /-- The rows whose memory form is not implemented (`MEM_FORM_IMPLEMENTED` false; R10, D2). -/
  regOnlyRows : List RowId
  /-- `BP_USES_SS` (R10, D3). -/
  bpUsesSs : Bool
  /-- `MODE0_WRITE_LOWERS_OUT` (R10, D29). -/
  mode0WriteLowersOut : Bool
deriving DecidableEq, Repr

/-- The defaults the spec takes for the parameters (00_scope.md R8 to R10). The length 0x10000 is
the largest image the default base admits (log entry 3). -/
def Config.default : Config where
  ramSize := 0xF0000
  biosBase := 0xF0000
  biosSize := 0x10000
  biosWritable := false
  a20Wrap := true
  bootCs := 0xF000#16
  bootIp := 0x0000#16
  flagsAlwaysSet := 0xF002#16
  removedRows := []
  regOnlyRows := []
  bpUsesSs := false
  mode0WriteLowersOut := false

/-- The mask sets only bits the spec lists as reserved and always set: bit 1 and bits 12 to 15
(10_state.md R35, R36; log entry 19). -/
def Config.wf (c : Config) : Bool := c.flagsAlwaysSet &&& 0x0FFD#16 == 0#16

/-- `UNMAPPED_READ`: the byte an unmapped read returns, "a draw in the model" (20_memory.md R90,
log entry 5). -/
opaque Config.unmappedRead : Byte

/-- `UNDEF_PORT_READ`: the byte an unrouted port returns, "a draw in the model" (20_memory.md R103,
log entry 6). -/
opaque Config.undefPortRead : Byte

/-- `draw("shift_OF")`: OF after a shift or rotate by two or more, one draw per instruction
executed (42_shift_rotate.md R309, log entry 7). -/
opaque Config.drawShiftOf : Nat → Bool

/-- `draw("shift_AF")`: AF after SHL, SHR or SAR, one draw per instruction executed
(42_shift_rotate.md R309, log entry 7). -/
opaque Config.drawShiftAf : Nat → Bool

end Sys2Proof
end

