-- ==== Sys2Proof/Syntax.lean ====
section
/-! DEFINITION. The abstract syntax: registers, operands, and one constructor of Instr for each row
of spec/opcode_table.json (30_encoding.md R180, R182), in the table's order. -/

namespace Sys2Proof

/-- The 8-bit registers in the order of their codes (10_state.md R31). -/
inductive Reg8 | al | cl | dl | bl | ah | ch | dh | bh
deriving DecidableEq, Repr

/-- The 16-bit general registers in the order of their codes (10_state.md R30). -/
inductive Reg16 | ax | cx | dx | bx | sp | bp | si | di
deriving DecidableEq, Repr

/-- The segment registers in the order of their codes (10_state.md R30, R32). -/
inductive SReg | es | cs | ss | ds
deriving DecidableEq, Repr

/-- The base and index combinations of the ModRM rm field (30_encoding.md R150). -/
inductive AddrBase | bxsi | bxdi | bpsi | bpdi | si | di | bp | bx
deriving DecidableEq, Repr

/-- The displacement that mod = 00, 01, 10 gives a base (30_encoding.md R151): none, an 8-bit one
that is sign-extended, a 16-bit one. -/
inductive Disp
  | none
  | d8 (b : Byte)
  | d16 (w : Word)
deriving DecidableEq, Repr

/-- A ModRM memory operand (30_encoding.md R150): a 16-bit direct address, or a base with a
displacement. -/
inductive MemOp
  | direct (off : Word)
  | based (b : AddrBase) (d : Disp)
deriving DecidableEq, Repr

/-- An Eb operand (00_scope.md R17). -/
inductive Ea8
  | reg (r : Reg8)
  | mem (m : MemOp)
deriving DecidableEq, Repr

/-- An Ew operand (00_scope.md R17). -/
inductive Ea16
  | reg (r : Reg16)
  | mem (m : MemOp)
deriving DecidableEq, Repr

/-- The admitted instructions: one constructor per row of the opcode table. The four prefix rows
are constructors of their own; 30_encoding.md R131's loop runs them before the instruction they
precede (log entry 9). -/
inductive Instr
  /-- ADD Eb,Gb (00), R256. -/
  | addEbGb (e : Ea8) (g : Reg8)
  /-- ADD Ew,Gw (01), R256. -/
  | addEwGw (e : Ea16) (g : Reg16)
  /-- ADD Gb,Eb (02), R256. -/
  | addGbEb (g : Reg8) (e : Ea8)
  /-- ADD Gw,Ew (03), R256. -/
  | addGwEw (g : Reg16) (e : Ea16)
  /-- ADD AL,Ib (04), R256. -/
  | addAlIb (imm : Byte)
  /-- ADD AX,Iw (05), R256. -/
  | addAxIw (imm : Word)
  /-- OR Eb,Gb (08), R257. -/
  | orEbGb (e : Ea8) (g : Reg8)
  /-- OR Ew,Gw (09), R257. -/
  | orEwGw (e : Ea16) (g : Reg16)
  /-- OR Gb,Eb (0A), R257. -/
  | orGbEb (g : Reg8) (e : Ea8)
  /-- OR Gw,Ew (0B), R257. -/
  | orGwEw (g : Reg16) (e : Ea16)
  /-- OR AL,Ib (0C), R257. -/
  | orAlIb (imm : Byte)
  /-- OR AX,Iw (0D), R257. -/
  | orAxIw (imm : Word)
  /-- ADC Eb,Gb (10), R258. -/
  | adcEbGb (e : Ea8) (g : Reg8)
  /-- ADC Ew,Gw (11), R258. -/
  | adcEwGw (e : Ea16) (g : Reg16)
  /-- ADC Gb,Eb (12), R258. -/
  | adcGbEb (g : Reg8) (e : Ea8)
  /-- ADC Gw,Ew (13), R258. -/
  | adcGwEw (g : Reg16) (e : Ea16)
  /-- ADC AL,Ib (14), R258. -/
  | adcAlIb (imm : Byte)
  /-- ADC AX,Iw (15), R258. -/
  | adcAxIw (imm : Word)
  /-- SBB Eb,Gb (18), R259. -/
  | sbbEbGb (e : Ea8) (g : Reg8)
  /-- SBB Ew,Gw (19), R259. -/
  | sbbEwGw (e : Ea16) (g : Reg16)
  /-- SBB Gb,Eb (1A), R259. -/
  | sbbGbEb (g : Reg8) (e : Ea8)
  /-- SBB Gw,Ew (1B), R259. -/
  | sbbGwEw (g : Reg16) (e : Ea16)
  /-- SBB AL,Ib (1C), R259. -/
  | sbbAlIb (imm : Byte)
  /-- SBB AX,Iw (1D), R259. -/
  | sbbAxIw (imm : Word)
  /-- AND Eb,Gb (20), R260. -/
  | andEbGb (e : Ea8) (g : Reg8)
  /-- AND Ew,Gw (21), R260. -/
  | andEwGw (e : Ea16) (g : Reg16)
  /-- AND Gb,Eb (22), R260. -/
  | andGbEb (g : Reg8) (e : Ea8)
  /-- AND Gw,Ew (23), R260. -/
  | andGwEw (g : Reg16) (e : Ea16)
  /-- AND AL,Ib (24), R260. -/
  | andAlIb (imm : Byte)
  /-- AND AX,Iw (25), R260. -/
  | andAxIw (imm : Word)
  /-- SUB Eb,Gb (28), R261. -/
  | subEbGb (e : Ea8) (g : Reg8)
  /-- SUB Ew,Gw (29), R261. -/
  | subEwGw (e : Ea16) (g : Reg16)
  /-- SUB Gb,Eb (2A), R261. -/
  | subGbEb (g : Reg8) (e : Ea8)
  /-- SUB Gw,Ew (2B), R261. -/
  | subGwEw (g : Reg16) (e : Ea16)
  /-- SUB AL,Ib (2C), R261. -/
  | subAlIb (imm : Byte)
  /-- SUB AX,Iw (2D), R261. -/
  | subAxIw (imm : Word)
  /-- XOR Eb,Gb (30), R262. -/
  | xorEbGb (e : Ea8) (g : Reg8)
  /-- XOR Ew,Gw (31), R262. -/
  | xorEwGw (e : Ea16) (g : Reg16)
  /-- XOR Gb,Eb (32), R262. -/
  | xorGbEb (g : Reg8) (e : Ea8)
  /-- XOR Gw,Ew (33), R262. -/
  | xorGwEw (g : Reg16) (e : Ea16)
  /-- XOR AL,Ib (34), R262. -/
  | xorAlIb (imm : Byte)
  /-- XOR AX,Iw (35), R262. -/
  | xorAxIw (imm : Word)
  /-- CMP Eb,Gb (38), R263. -/
  | cmpEbGb (e : Ea8) (g : Reg8)
  /-- CMP Ew,Gw (39), R263. -/
  | cmpEwGw (e : Ea16) (g : Reg16)
  /-- CMP Gb,Eb (3A), R263. -/
  | cmpGbEb (g : Reg8) (e : Ea8)
  /-- CMP Gw,Ew (3B), R263. -/
  | cmpGwEw (g : Reg16) (e : Ea16)
  /-- CMP AL,Ib (3C), R263. -/
  | cmpAlIb (imm : Byte)
  /-- CMP AX,Iw (3D), R263. -/
  | cmpAxIw (imm : Word)
  /-- ADD Eb,Ib (80 /0), R256. -/
  | addEbIb (e : Ea8) (imm : Byte)
  /-- ADD Ew,Iw (81 /0), R256. -/
  | addEwIw (e : Ea16) (imm : Word)
  /-- ADD Ew,Ibs (83 /0), R256. -/
  | addEwIbs (e : Ea16) (imm : Byte)
  /-- OR Eb,Ib (80 /1), R257. -/
  | orEbIb (e : Ea8) (imm : Byte)
  /-- OR Ew,Iw (81 /1), R257. -/
  | orEwIw (e : Ea16) (imm : Word)
  /-- OR Ew,Ibs (83 /1), R257. -/
  | orEwIbs (e : Ea16) (imm : Byte)
  /-- ADC Eb,Ib (80 /2), R258. -/
  | adcEbIb (e : Ea8) (imm : Byte)
  /-- ADC Ew,Iw (81 /2), R258. -/
  | adcEwIw (e : Ea16) (imm : Word)
  /-- ADC Ew,Ibs (83 /2), R258. -/
  | adcEwIbs (e : Ea16) (imm : Byte)
  /-- SBB Eb,Ib (80 /3), R259. -/
  | sbbEbIb (e : Ea8) (imm : Byte)
  /-- SBB Ew,Iw (81 /3), R259. -/
  | sbbEwIw (e : Ea16) (imm : Word)
  /-- SBB Ew,Ibs (83 /3), R259. -/
  | sbbEwIbs (e : Ea16) (imm : Byte)
  /-- AND Eb,Ib (80 /4), R260. -/
  | andEbIb (e : Ea8) (imm : Byte)
  /-- AND Ew,Iw (81 /4), R260. -/
  | andEwIw (e : Ea16) (imm : Word)
  /-- AND Ew,Ibs (83 /4), R260. -/
  | andEwIbs (e : Ea16) (imm : Byte)
  /-- SUB Eb,Ib (80 /5), R261. -/
  | subEbIb (e : Ea8) (imm : Byte)
  /-- SUB Ew,Iw (81 /5), R261. -/
  | subEwIw (e : Ea16) (imm : Word)
  /-- SUB Ew,Ibs (83 /5), R261. -/
  | subEwIbs (e : Ea16) (imm : Byte)
  /-- XOR Eb,Ib (80 /6), R262. -/
  | xorEbIb (e : Ea8) (imm : Byte)
  /-- XOR Ew,Iw (81 /6), R262. -/
  | xorEwIw (e : Ea16) (imm : Word)
  /-- XOR Ew,Ibs (83 /6), R262. -/
  | xorEwIbs (e : Ea16) (imm : Byte)
  /-- CMP Eb,Ib (80 /7), R263. -/
  | cmpEbIb (e : Ea8) (imm : Byte)
  /-- CMP Ew,Iw (81 /7), R263. -/
  | cmpEwIw (e : Ea16) (imm : Word)
  /-- CMP Ew,Ibs (83 /7), R263. -/
  | cmpEwIbs (e : Ea16) (imm : Byte)
  /-- PUSH ES (06), R213. -/
  | pushEs
  /-- POP ES (07), R214. -/
  | popEs
  /-- PUSH CS (0E), R213. -/
  | pushCs
  /-- PUSH SS (16), R213. -/
  | pushSs
  /-- POP SS (17), R214. -/
  | popSs
  /-- PUSH DS (1E), R213. -/
  | pushDs
  /-- POP DS (1F), R214. -/
  | popDs
  /-- ES: prefix (26), R140. -/
  | esPrefix
  /-- CS: prefix (2E), R140. -/
  | csPrefix
  /-- SS: prefix (36), R140. -/
  | ssPrefix
  /-- DS: prefix (3E), R140. -/
  | dsPrefix
  /-- INC AX (40), R265. -/
  | incAx
  /-- INC CX (41), R265. -/
  | incCx
  /-- INC DX (42), R265. -/
  | incDx
  /-- INC BX (43), R265. -/
  | incBx
  /-- INC SP (44), R265. -/
  | incSp
  /-- INC BP (45), R265. -/
  | incBp
  /-- INC SI (46), R265. -/
  | incSi
  /-- INC DI (47), R265. -/
  | incDi
  /-- DEC AX (48), R266. -/
  | decAx
  /-- DEC CX (49), R266. -/
  | decCx
  /-- DEC DX (4A), R266. -/
  | decDx
  /-- DEC BX (4B), R266. -/
  | decBx
  /-- DEC SP (4C), R266. -/
  | decSp
  /-- DEC BP (4D), R266. -/
  | decBp
  /-- DEC SI (4E), R266. -/
  | decSi
  /-- DEC DI (4F), R266. -/
  | decDi
  /-- PUSH AX (50), R211. -/
  | pushAx
  /-- PUSH CX (51), R211. -/
  | pushCx
  /-- PUSH DX (52), R211. -/
  | pushDx
  /-- PUSH BX (53), R211. -/
  | pushBx
  /-- PUSH SP (54), R211. -/
  | pushSp
  /-- PUSH BP (55), R211. -/
  | pushBp
  /-- PUSH SI (56), R211. -/
  | pushSi
  /-- PUSH DI (57), R211. -/
  | pushDi
  /-- POP AX (58), R212. -/
  | popAx
  /-- POP CX (59), R212. -/
  | popCx
  /-- POP DX (5A), R212. -/
  | popDx
  /-- POP BX (5B), R212. -/
  | popBx
  /-- POP SP (5C), R212. -/
  | popSp
  /-- POP BP (5D), R212. -/
  | popBp
  /-- POP SI (5E), R212. -/
  | popSi
  /-- POP DI (5F), R212. -/
  | popDi
  /-- JO Jb (70), R343. -/
  | joJb (d : Byte)
  /-- JNO Jb (71), R344. -/
  | jnoJb (d : Byte)
  /-- JB Jb (72), R345. -/
  | jbJb (d : Byte)
  /-- JNB Jb (73), R346. -/
  | jnbJb (d : Byte)
  /-- JZ Jb (74), R347. -/
  | jzJb (d : Byte)
  /-- JNZ Jb (75), R348. -/
  | jnzJb (d : Byte)
  /-- JBE Jb (76), R349. -/
  | jbeJb (d : Byte)
  /-- JA Jb (77), R350. -/
  | jaJb (d : Byte)
  /-- JS Jb (78), R351. -/
  | jsJb (d : Byte)
  /-- JNS Jb (79), R352. -/
  | jnsJb (d : Byte)
  /-- JP Jb (7A), R353. -/
  | jpJb (d : Byte)
  /-- JNP Jb (7B), R354. -/
  | jnpJb (d : Byte)
  /-- JL Jb (7C), R355. -/
  | jlJb (d : Byte)
  /-- JGE Jb (7D), R356. -/
  | jgeJb (d : Byte)
  /-- JLE Jb (7E), R357. -/
  | jleJb (d : Byte)
  /-- JG Jb (7F), R358. -/
  | jgJb (d : Byte)
  /-- TEST Eb,Gb (84), R264. -/
  | testEbGb (e : Ea8) (g : Reg8)
  /-- TEST Ew,Gw (85), R264. -/
  | testEwGw (e : Ea16) (g : Reg16)
  /-- MOV Eb,Gb (88), R200. -/
  | movEbGb (e : Ea8) (g : Reg8)
  /-- MOV Ew,Gw (89), R200. -/
  | movEwGw (e : Ea16) (g : Reg16)
  /-- MOV Gb,Eb (8A), R200. -/
  | movGbEb (g : Reg8) (e : Ea8)
  /-- MOV Gw,Ew (8B), R200. -/
  | movGwEw (g : Reg16) (e : Ea16)
  /-- MOV Ew,Sw (8C), R201. -/
  | movEwSw (e : Ea16) (sr : SReg)
  /-- MOV Sw,Ew (8E), R202. -/
  | movSwEw (sr : SReg) (e : Ea16)
  /-- POP Ew (8F /0), R216. -/
  | popEw (e : Ea16)
  /-- NOP (90), R387. -/
  | nop
  /-- CALL Ap (9A), R336. -/
  | callAp (off seg : Word)
  /-- PUSHF (9C), R217. -/
  | pushf
  /-- POPF (9D), R218. -/
  | popf
  /-- MOV AL,Ob (A0), R203. -/
  | movAlOb (off : Word)
  /-- MOV AX,Ow (A1), R203. -/
  | movAxOw (off : Word)
  /-- MOV Ob,AL (A2), R204. -/
  | movObAl (off : Word)
  /-- MOV Ow,AX (A3), R204. -/
  | movOwAx (off : Word)
  /-- TEST AL,Ib (A8), R264. -/
  | testAlIb (imm : Byte)
  /-- TEST AX,Iw (A9), R264. -/
  | testAxIw (imm : Word)
  /-- MOV AL,Ib (B0), R205. -/
  | movAlIb (imm : Byte)
  /-- MOV CL,Ib (B1), R205. -/
  | movClIb (imm : Byte)
  /-- MOV DL,Ib (B2), R205. -/
  | movDlIb (imm : Byte)
  /-- MOV BL,Ib (B3), R205. -/
  | movBlIb (imm : Byte)
  /-- MOV AH,Ib (B4), R205. -/
  | movAhIb (imm : Byte)
  /-- MOV CH,Ib (B5), R205. -/
  | movChIb (imm : Byte)
  /-- MOV DH,Ib (B6), R205. -/
  | movDhIb (imm : Byte)
  /-- MOV BH,Ib (B7), R205. -/
  | movBhIb (imm : Byte)
  /-- MOV AX,Iw (B8), R206. -/
  | movAxIw (imm : Word)
  /-- MOV CX,Iw (B9), R206. -/
  | movCxIw (imm : Word)
  /-- MOV DX,Iw (BA), R206. -/
  | movDxIw (imm : Word)
  /-- MOV BX,Iw (BB), R206. -/
  | movBxIw (imm : Word)
  /-- MOV SP,Iw (BC), R206. -/
  | movSpIw (imm : Word)
  /-- MOV BP,Iw (BD), R206. -/
  | movBpIw (imm : Word)
  /-- MOV SI,Iw (BE), R206. -/
  | movSiIw (imm : Word)
  /-- MOV DI,Iw (BF), R206. -/
  | movDiIw (imm : Word)
  /-- RET Iw (C2), R339. -/
  | retIw (imm : Word)
  /-- RET (C3), R338. -/
  | ret
  /-- MOV Eb,Ib (C6 /0), R207. -/
  | movEbIb (e : Ea8) (imm : Byte)
  /-- MOV Ew,Iw (C7 /0), R207. -/
  | movEwIw (e : Ea16) (imm : Word)
  /-- RETF Iw (CA), R341. -/
  | retfIw (imm : Word)
  /-- RETF (CB), R340. -/
  | retf
  /-- INT3 (CC), R366. -/
  | int3
  /-- INT Ib (CD), R365. -/
  | intIb (n : Byte)
  /-- INTO (CE), R367. -/
  | into
  /-- IRET (CF), R368. -/
  | iret
  /-- ROL Eb,1 (D0 /0), R302. -/
  | rolEb1 (e : Ea8)
  /-- ROL Ew,1 (D1 /0), R302. -/
  | rolEw1 (e : Ea16)
  /-- ROL Eb,CL (D2 /0), R302. -/
  | rolEbCl (e : Ea8)
  /-- ROL Ew,CL (D3 /0), R302. -/
  | rolEwCl (e : Ea16)
  /-- ROR Eb,1 (D0 /1), R303. -/
  | rorEb1 (e : Ea8)
  /-- ROR Ew,1 (D1 /1), R303. -/
  | rorEw1 (e : Ea16)
  /-- ROR Eb,CL (D2 /1), R303. -/
  | rorEbCl (e : Ea8)
  /-- ROR Ew,CL (D3 /1), R303. -/
  | rorEwCl (e : Ea16)
  /-- RCL Eb,1 (D0 /2), R304. -/
  | rclEb1 (e : Ea8)
  /-- RCL Ew,1 (D1 /2), R304. -/
  | rclEw1 (e : Ea16)
  /-- RCL Eb,CL (D2 /2), R304. -/
  | rclEbCl (e : Ea8)
  /-- RCL Ew,CL (D3 /2), R304. -/
  | rclEwCl (e : Ea16)
  /-- RCR Eb,1 (D0 /3), R305. -/
  | rcrEb1 (e : Ea8)
  /-- RCR Ew,1 (D1 /3), R305. -/
  | rcrEw1 (e : Ea16)
  /-- RCR Eb,CL (D2 /3), R305. -/
  | rcrEbCl (e : Ea8)
  /-- RCR Ew,CL (D3 /3), R305. -/
  | rcrEwCl (e : Ea16)
  /-- SHL Eb,1 (D0 /4), R306. -/
  | shlEb1 (e : Ea8)
  /-- SHL Ew,1 (D1 /4), R306. -/
  | shlEw1 (e : Ea16)
  /-- SHL Eb,CL (D2 /4), R306. -/
  | shlEbCl (e : Ea8)
  /-- SHL Ew,CL (D3 /4), R306. -/
  | shlEwCl (e : Ea16)
  /-- SHR Eb,1 (D0 /5), R307. -/
  | shrEb1 (e : Ea8)
  /-- SHR Ew,1 (D1 /5), R307. -/
  | shrEw1 (e : Ea16)
  /-- SHR Eb,CL (D2 /5), R307. -/
  | shrEbCl (e : Ea8)
  /-- SHR Ew,CL (D3 /5), R307. -/
  | shrEwCl (e : Ea16)
  /-- SAR Eb,1 (D0 /7), R308. -/
  | sarEb1 (e : Ea8)
  /-- SAR Ew,1 (D1 /7), R308. -/
  | sarEw1 (e : Ea16)
  /-- SAR Eb,CL (D2 /7), R308. -/
  | sarEbCl (e : Ea8)
  /-- SAR Ew,CL (D3 /7), R308. -/
  | sarEwCl (e : Ea16)
  /-- LOOPNZ Jb (E0), R360. -/
  | loopnzJb (d : Byte)
  /-- LOOPZ Jb (E1), R361. -/
  | loopzJb (d : Byte)
  /-- LOOP Jb (E2), R362. -/
  | loopJb (d : Byte)
  /-- JCXZ Jb (E3), R363. -/
  | jcxzJb (d : Byte)
  /-- IN AL,Ib (E4), R230. -/
  | inAlIb (port : Byte)
  /-- IN AX,Ib (E5), R230. -/
  | inAxIb (port : Byte)
  /-- OUT Ib,AL (E6), R231. -/
  | outIbAl (port : Byte)
  /-- OUT Ib,AX (E7), R231. -/
  | outIbAx (port : Byte)
  /-- CALL Jw (E8), R335. -/
  | callJw (d : Word)
  /-- JMP Jw (E9), R332. -/
  | jmpJw (d : Word)
  /-- JMP Ap (EA), R333. -/
  | jmpAp (off seg : Word)
  /-- JMP Jb (EB), R331. -/
  | jmpJb (d : Byte)
  /-- IN AL,DX (EC), R232. -/
  | inAlDx
  /-- IN AX,DX (ED), R232. -/
  | inAxDx
  /-- OUT DX,AL (EE), R233. -/
  | outDxAl
  /-- OUT DX,AX (EF), R233. -/
  | outDxAx
  /-- HLT (F4), R369. -/
  | hlt
  /-- CMC (F5), R382. -/
  | cmc
  /-- TEST Eb,Ib (F6 /0), R264. -/
  | testEbIb (e : Ea8) (imm : Byte)
  /-- NOT Eb (F6 /2), R268. -/
  | notEb (e : Ea8)
  /-- NEG Eb (F6 /3), R267. -/
  | negEb (e : Ea8)
  /-- TEST Ew,Iw (F7 /0), R264. -/
  | testEwIw (e : Ea16) (imm : Word)
  /-- NOT Ew (F7 /2), R268. -/
  | notEw (e : Ea16)
  /-- NEG Ew (F7 /3), R267. -/
  | negEw (e : Ea16)
  /-- CLC (F8), R380. -/
  | clc
  /-- STC (F9), R381. -/
  | stc
  /-- CLI (FA), R383. -/
  | cli
  /-- STI (FB), R384. -/
  | sti
  /-- CLD (FC), R385. -/
  | cld
  /-- STD (FD), R386. -/
  | std
  /-- INC Eb (FE /0), R265. -/
  | incEb (e : Ea8)
  /-- DEC Eb (FE /1), R266. -/
  | decEb (e : Ea8)
  /-- INC Ew (FF /0), R265. -/
  | incEw (e : Ea16)
  /-- DEC Ew (FF /1), R266. -/
  | decEw (e : Ea16)
  /-- CALL Ew (FF /2), R337. -/
  | callEw (e : Ea16)
  /-- JMP Ew (FF /4), R334. -/
  | jmpEw (e : Ea16)
  /-- PUSH Ew (FF /6), R215. -/
  | pushEw (e : Ea16)
deriving DecidableEq, Repr

end Sys2Proof
end

