-- ==== Sys2Proof/WellFormed.lean ====
section
/-! DEFINITION. Which terms of Syntax stand for an encoding. Two terms of the operand types stand
for none: BP with no displacement (30_encoding.md R150: that ModRM byte means a direct address) and
CS as the destination of MOV Sw,Ew (30_encoding.md R162). -/

namespace Sys2Proof

/-- R150: rm = 110 with mod = 00 is the direct address, so BP alone has no encoding. -/
def MemOp.wf : MemOp → Bool
  | .direct _ => true
  | .based b d => !(b == .bp && d == .none)

/-- A register operand is well-formed; a memory operand as `MemOp.wf`. -/
def Ea8.wf : Ea8 → Bool
  | .reg _ => true
  | .mem m => m.wf

/-- A register operand is well-formed; a memory operand as `MemOp.wf`. -/
def Ea16.wf : Ea16 → Bool
  | .reg _ => true
  | .mem m => m.wf

/-- R162: MOV may load ES, SS and DS, not CS. -/
def SReg.movDest : SReg → Bool
  | .cs => false
  | .es | .ss | .ds => true

/-- The instruction stands for an encoding of the opcode table. -/
def Instr.wf : Instr → Bool
  | .addEbGb e _ => e.wf
  | .addEwGw e _ => e.wf
  | .addGbEb _ e => e.wf
  | .addGwEw _ e => e.wf
  | .orEbGb e _ => e.wf
  | .orEwGw e _ => e.wf
  | .orGbEb _ e => e.wf
  | .orGwEw _ e => e.wf
  | .adcEbGb e _ => e.wf
  | .adcEwGw e _ => e.wf
  | .adcGbEb _ e => e.wf
  | .adcGwEw _ e => e.wf
  | .sbbEbGb e _ => e.wf
  | .sbbEwGw e _ => e.wf
  | .sbbGbEb _ e => e.wf
  | .sbbGwEw _ e => e.wf
  | .andEbGb e _ => e.wf
  | .andEwGw e _ => e.wf
  | .andGbEb _ e => e.wf
  | .andGwEw _ e => e.wf
  | .subEbGb e _ => e.wf
  | .subEwGw e _ => e.wf
  | .subGbEb _ e => e.wf
  | .subGwEw _ e => e.wf
  | .xorEbGb e _ => e.wf
  | .xorEwGw e _ => e.wf
  | .xorGbEb _ e => e.wf
  | .xorGwEw _ e => e.wf
  | .cmpEbGb e _ => e.wf
  | .cmpEwGw e _ => e.wf
  | .cmpGbEb _ e => e.wf
  | .cmpGwEw _ e => e.wf
  | .addEbIb e _ => e.wf
  | .addEwIw e _ => e.wf
  | .addEwIbs e _ => e.wf
  | .orEbIb e _ => e.wf
  | .orEwIw e _ => e.wf
  | .orEwIbs e _ => e.wf
  | .adcEbIb e _ => e.wf
  | .adcEwIw e _ => e.wf
  | .adcEwIbs e _ => e.wf
  | .sbbEbIb e _ => e.wf
  | .sbbEwIw e _ => e.wf
  | .sbbEwIbs e _ => e.wf
  | .andEbIb e _ => e.wf
  | .andEwIw e _ => e.wf
  | .andEwIbs e _ => e.wf
  | .subEbIb e _ => e.wf
  | .subEwIw e _ => e.wf
  | .subEwIbs e _ => e.wf
  | .xorEbIb e _ => e.wf
  | .xorEwIw e _ => e.wf
  | .xorEwIbs e _ => e.wf
  | .cmpEbIb e _ => e.wf
  | .cmpEwIw e _ => e.wf
  | .cmpEwIbs e _ => e.wf
  | .testEbGb e _ => e.wf
  | .testEwGw e _ => e.wf
  | .movEbGb e _ => e.wf
  | .movEwGw e _ => e.wf
  | .movGbEb _ e => e.wf
  | .movGwEw _ e => e.wf
  | .movEwSw e _ => e.wf
  | .movSwEw sr e => sr.movDest && e.wf
  | .popEw e => e.wf
  | .movEbIb e _ => e.wf
  | .movEwIw e _ => e.wf
  | .rolEb1 e => e.wf
  | .rolEw1 e => e.wf
  | .rolEbCl e => e.wf
  | .rolEwCl e => e.wf
  | .rorEb1 e => e.wf
  | .rorEw1 e => e.wf
  | .rorEbCl e => e.wf
  | .rorEwCl e => e.wf
  | .rclEb1 e => e.wf
  | .rclEw1 e => e.wf
  | .rclEbCl e => e.wf
  | .rclEwCl e => e.wf
  | .rcrEb1 e => e.wf
  | .rcrEw1 e => e.wf
  | .rcrEbCl e => e.wf
  | .rcrEwCl e => e.wf
  | .shlEb1 e => e.wf
  | .shlEw1 e => e.wf
  | .shlEbCl e => e.wf
  | .shlEwCl e => e.wf
  | .shrEb1 e => e.wf
  | .shrEw1 e => e.wf
  | .shrEbCl e => e.wf
  | .shrEwCl e => e.wf
  | .sarEb1 e => e.wf
  | .sarEw1 e => e.wf
  | .sarEbCl e => e.wf
  | .sarEwCl e => e.wf
  | .testEbIb e _ => e.wf
  | .notEb e => e.wf
  | .negEb e => e.wf
  | .testEwIw e _ => e.wf
  | .notEw e => e.wf
  | .negEw e => e.wf
  | .incEb e => e.wf
  | .decEb e => e.wf
  | .incEw e => e.wf
  | .decEw e => e.wf
  | .callEw e => e.wf
  | .jmpEw e => e.wf
  | .pushEw e => e.wf
  | .addAlIb _ | .addAxIw _ | .orAlIb _ | .orAxIw _ | .adcAlIb _ | .adcAxIw _ | .sbbAlIb _
  | .sbbAxIw _ | .andAlIb _ | .andAxIw _ | .subAlIb _ | .subAxIw _ | .xorAlIb _ | .xorAxIw _
  | .cmpAlIb _ | .cmpAxIw _ | .pushEs | .popEs | .pushCs | .pushSs | .popSs | .pushDs | .popDs
  | .esPrefix | .csPrefix | .ssPrefix | .dsPrefix | .incAx | .incCx | .incDx | .incBx | .incSp
  | .incBp | .incSi | .incDi | .decAx | .decCx | .decDx | .decBx | .decSp | .decBp | .decSi
  | .decDi | .pushAx | .pushCx | .pushDx | .pushBx | .pushSp | .pushBp | .pushSi | .pushDi
  | .popAx | .popCx | .popDx | .popBx | .popSp | .popBp | .popSi | .popDi | .joJb _ | .jnoJb _
  | .jbJb _ | .jnbJb _ | .jzJb _ | .jnzJb _ | .jbeJb _ | .jaJb _ | .jsJb _ | .jnsJb _ | .jpJb _
  | .jnpJb _ | .jlJb _ | .jgeJb _ | .jleJb _ | .jgJb _ | .nop | .callAp _ _ | .pushf | .popf
  | .movAlOb _ | .movAxOw _ | .movObAl _ | .movOwAx _ | .testAlIb _ | .testAxIw _ | .movAlIb _
  | .movClIb _ | .movDlIb _ | .movBlIb _ | .movAhIb _ | .movChIb _ | .movDhIb _ | .movBhIb _
  | .movAxIw _ | .movCxIw _ | .movDxIw _ | .movBxIw _ | .movSpIw _ | .movBpIw _ | .movSiIw _
  | .movDiIw _ | .retIw _ | .ret | .retfIw _ | .retf | .int3 | .intIb _ | .into | .iret
  | .loopnzJb _ | .loopzJb _ | .loopJb _ | .jcxzJb _ | .inAlIb _ | .inAxIb _ | .outIbAl _
  | .outIbAx _ | .callJw _ | .jmpJw _ | .jmpAp _ _ | .jmpJb _ | .inAlDx | .inAxDx | .outDxAl
  | .outDxAx | .hlt | .cmc | .clc | .stc | .cli | .sti | .cld | .std => true

end Sys2Proof
end

