-- ==== Sys2Proof/Decode.lean ====
section
/-! DEFINITION. From bytes to instructions and back: the decoder (30_encoding.md R130 to R185),
total on any list of bytes and refusing by name, and after it the encoder, from the same tables
(R186). The byte-order, sign-extension and bit-field helpers of the whole model stand here too. -/

namespace Sys2Proof

/-! ## Byte order, sign extension and bit fields -/

/-- The low byte of a word (20_memory.md R91). -/
def loByte (w : Word) : Byte := w.setWidth 8

/-- The high byte of a word (20_memory.md R91). -/
def hiByte (w : Word) : Byte := (w >>> 8).setWidth 8

/-- The word whose low and high bytes are given: `lo | hi << 8` (20_memory.md R89). -/
def wordOf (lo hi : Byte) : Word := lo.setWidth 16 ||| (hi.setWidth 16 <<< 8)

/-- `sext_16` of a byte (00_scope.md R13). -/
def sext16 (b : Byte) : Word := b.signExtend 16

/-- `zext_16` of a byte (00_scope.md R13). -/
def zext16 (b : Byte) : Word := b.setWidth 16

/-- The mod field, bits 7:6 of a ModRM byte (30_encoding.md R150). -/
def modField (m : Byte) : BitVec 2 := m.extractLsb' 6 2

/-- The reg field, bits 5:3 (30_encoding.md R150). -/
def regField (m : Byte) : BitVec 3 := m.extractLsb' 3 3

/-- The rm field, bits 2:0 (30_encoding.md R150). -/
def rmField (m : Byte) : BitVec 3 := m.extractLsb' 0 3

/-- The ModRM byte of its three fields (30_encoding.md R150). -/
def modrmByte (md : BitVec 2) (reg rm : BitVec 3) : Byte :=
  (md.setWidth 8 <<< 6) ||| (reg.setWidth 8 <<< 3) ||| rm.setWidth 8

/-! ## Register codes -/

/-- 10_state.md R31. -/
def Reg8.ofCode (c : BitVec 3) : Reg8 :=
  match c.toNat with
  | 0 => .al | 1 => .cl | 2 => .dl | 3 => .bl | 4 => .ah | 5 => .ch | 6 => .dh | _ => .bh

/-- 10_state.md R31. -/
def Reg8.code : Reg8 → BitVec 3
  | .al => 0 | .cl => 1 | .dl => 2 | .bl => 3 | .ah => 4 | .ch => 5 | .dh => 6 | .bh => 7

/-- 10_state.md R30. -/
def Reg16.ofCode (c : BitVec 3) : Reg16 :=
  match c.toNat with
  | 0 => .ax | 1 => .cx | 2 => .dx | 3 => .bx | 4 => .sp | 5 => .bp | 6 => .si | _ => .di

/-- 10_state.md R30. -/
def Reg16.code : Reg16 → BitVec 3
  | .ax => 0 | .cx => 1 | .dx => 2 | .bx => 3 | .sp => 4 | .bp => 5 | .si => 6 | .di => 7

/-- The segment register of a reg field, if it names one (30_encoding.md R162; 10_state.md R32). -/
def SReg.ofCode3 (c : BitVec 3) : Option SReg :=
  match c.toNat with
  | 0 => some .es | 1 => some .cs | 2 => some .ss | 3 => some .ds | _ => none

/-- 10_state.md R32. -/
def SReg.code3 : SReg → BitVec 3
  | .es => 0 | .cs => 1 | .ss => 2 | .ds => 3

/-- The base and index of an rm field (30_encoding.md R150). -/
def AddrBase.ofCode (c : BitVec 3) : AddrBase :=
  match c.toNat with
  | 0 => .bxsi | 1 => .bxdi | 2 => .bpsi | 3 => .bpdi | 4 => .si | 5 => .di | 6 => .bp | _ => .bx

/-- The rm field of a base and index (30_encoding.md R150). -/
def AddrBase.code : AddrBase → BitVec 3
  | .bxsi => 0 | .bxdi => 1 | .bpsi => 2 | .bpdi => 3 | .si => 4 | .di => 5 | .bp => 6 | .bx => 7

/-- The 16-bit register an 8-bit register is a half of (10_state.md R31). -/
def Reg8.parent : Reg8 → Reg16
  | .al | .ah => .ax
  | .cl | .ch => .cx
  | .dl | .dh => .dx
  | .bl | .bh => .bx

/-- Whether an 8-bit register is the high half (10_state.md R31). -/
def Reg8.isHigh : Reg8 → Bool
  | .al | .cl | .dl | .bl => false
  | .ah | .ch | .dh | .bh => true

/-- The modes with BP as base (20_memory.md R82). -/
def AddrBase.usesBp : AddrBase → Bool
  | .bpsi | .bpdi | .bp => true
  | .bxsi | .bxdi | .si | .di | .bx => false

/-- Whether a memory operand has BP as base (20_memory.md R82). -/
def MemOp.usesBp : MemOp → Bool
  | .direct _ => false
  | .based b _ => b.usesBp

/-! ## What the decoder answers -/

/-- The emulation-fault reasons (30_encoding.md R185, 60_exceptions.md R401), with the opcode byte
and the ModRM reg field where one was read (60_exceptions.md R400). -/
inductive EmulationFault
  | unknownOpcode (op : Byte)
  | unknownExtension (op : Byte) (reg : BitVec 3)
  | badSegmentRegister (op : Byte) (reg : BitVec 3)
  | unimplementedAddressing (op : Byte) (reg : BitVec 3)
  | notImplemented (op : Byte) (reg : Option (BitVec 3))
deriving DecidableEq, Repr

/-- The number of a reason (60_exceptions.md R401). -/
def EmulationFault.number : EmulationFault → Nat
  | .unknownOpcode _ => 1
  | .unknownExtension _ _ => 2
  | .badSegmentRegister _ _ => 3
  | .unimplementedAddressing _ _ => 4
  | .notImplemented _ _ => 5

/-- Why the decoder refuses a list of bytes: an emulation fault of the spec, or a list that ends
before the instruction does. Six bytes hold every admitted instruction (R172), so the machine,
which hands it six, never meets the second (log entry 11). -/
inductive Reject
  | fault (f : EmulationFault)
  | truncated
deriving DecidableEq, Repr

/-- An instruction and the bytes after it, or the refusal. -/
abbrev DecodeResult := Except Reject (Instr × List Byte)

/-- 30_encoding.md R181. -/
def unknownOpcode (op : Byte) : DecodeResult := .error (.fault (.unknownOpcode op))

/-! ## Fields after the opcode (30_encoding.md R170) -/

/-- An Ib, Ibs or Jb field. -/
def fieldByte (k : Byte → Instr) : List Byte → DecodeResult
  | b :: r => .ok (k b, r)
  | [] => .error .truncated

/-- An Iw, Ow or Jw field, little-endian. -/
def fieldWord (k : Word → Instr) : List Byte → DecodeResult
  | lo :: hi :: r => .ok (k (wordOf lo hi), r)
  | [_] | [] => .error .truncated

/-- An Ap field: the offset word, then the segment word. -/
def fieldFar (k : Word → Word → Instr) : List Byte → DecodeResult
  | a :: b :: c :: d :: r => .ok (k (wordOf a b) (wordOf c d), r)
  | [_, _, _] | [_, _] | [_] | [] => .error .truncated

/-! ## ModRM (30_encoding.md R150 to R153) -/

/-- What mod and rm name: a register code or a memory operand. -/
inductive Rm
  | reg (code : BitVec 3)
  | mem (m : MemOp)
deriving DecidableEq, Repr

/-- The byte operand of an rm field (30_encoding.md R153). -/
def Rm.ea8 : Rm → Ea8
  | .reg c => .reg (.ofCode c)
  | .mem m => .mem m

/-- The word operand of an rm field (30_encoding.md R153). -/
def Rm.ea16 : Rm → Ea16
  | .reg c => .reg (.ofCode c)
  | .mem m => .mem m

/-- Read the displacement that mod and rm call for (30_encoding.md R151, with R150's exception for
rm = 110 and mod = 00). -/
def readRm (m : Byte) (r : List Byte) : Option (Rm × List Byte) :=
  match (modField m).toNat, r with
  | 0, r =>
    if rmField m = 6#3 then
      match r with
      | lo :: hi :: r => some (.mem (.direct (wordOf lo hi)), r)
      | [_] | [] => none
    else some (.mem (.based (.ofCode (rmField m)) .none), r)
  | 1, b :: r => some (.mem (.based (.ofCode (rmField m)) (.d8 b)), r)
  | 1, [] => none
  | 2, lo :: hi :: r => some (.mem (.based (.ofCode (rmField m)) (.d16 (wordOf lo hi))), r)
  | 2, [_] | 2, [] => none
  | _, r => some (.reg (rmField m), r)

/-- Read the ModRM byte, let `sel` decide the reg field (an extension or a segment code; a refusal
ends the decode before the displacement is read, 30_encoding.md R131), read the displacement, and
go on with what follows. -/
def modrm {α : Type} (sel : BitVec 3 → Except Reject α)
    (k : α → Rm → List Byte → DecodeResult) : List Byte → DecodeResult
  | [] => .error .truncated
  | m :: r =>
    match sel (regField m) with
    | .error e => .error e
    | .ok a =>
      match readRm m r with
      | none => .error .truncated
      | some (rm, r) => k a rm r

/-- Rows Eb,Gb. -/
def modrmEbGb (c : Ea8 → Reg8 → Instr) : List Byte → DecodeResult :=
  modrm .ok fun reg rm r => .ok (c rm.ea8 (.ofCode reg), r)

/-- Rows Ew,Gw. -/
def modrmEwGw (c : Ea16 → Reg16 → Instr) : List Byte → DecodeResult :=
  modrm .ok fun reg rm r => .ok (c rm.ea16 (.ofCode reg), r)

/-- Rows Gb,Eb. -/
def modrmGbEb (c : Reg8 → Ea8 → Instr) : List Byte → DecodeResult :=
  modrm .ok fun reg rm r => .ok (c (.ofCode reg) rm.ea8, r)

/-- Rows Gw,Ew. -/
def modrmGwEw (c : Reg16 → Ea16 → Instr) : List Byte → DecodeResult :=
  modrm .ok fun reg rm r => .ok (c (.ofCode reg) rm.ea16, r)

/-- The segment codes a row accepts (30_encoding.md R162). -/
def segmentField (op : Byte) (legal : SReg → Bool) (reg : BitVec 3) : Except Reject SReg :=
  match SReg.ofCode3 reg with
  | some sr =>
    if legal sr then .ok sr else .error (.fault (.badSegmentRegister op reg))
  | none => .error (.fault (.badSegmentRegister op reg))

/-- MOV Ew,Sw: any segment register (30_encoding.md R162). -/
def modrmEwSw (op : Byte) (c : Ea16 → SReg → Instr) : List Byte → DecodeResult :=
  modrm (segmentField op fun _ => true) fun sr rm r => .ok (c rm.ea16 sr, r)

/-- MOV Sw,Ew: not CS (30_encoding.md R162). -/
def modrmSwEw (op : Byte) (c : SReg → Ea16 → Instr) : List Byte → DecodeResult :=
  modrm (segmentField op SReg.movDest) fun sr rm r => .ok (c sr rm.ea16, r)

/-- The admitted extensions of a group opcode (30_encoding.md R182). -/
def extension {α : Type} (op : Byte) (sel : BitVec 3 → Option α) (reg : BitVec 3) :
    Except Reject α :=
  match sel reg with
  | some a => .ok a
  | none => .error (.fault (.unknownExtension op reg))

/-- Group rows with an Eb operand. -/
def groupEb (op : Byte) (sel : BitVec 3 → Option (Ea8 → Instr)) : List Byte → DecodeResult :=
  modrm (extension op sel) fun c rm r => .ok (c rm.ea8, r)

/-- Group rows with an Ew operand. -/
def groupEw (op : Byte) (sel : BitVec 3 → Option (Ea16 → Instr)) : List Byte → DecodeResult :=
  modrm (extension op sel) fun c rm r => .ok (c rm.ea16, r)

/-- Group rows Eb,Ib: the immediate follows the displacement. -/
def groupEbIb (op : Byte) (sel : BitVec 3 → Option (Ea8 → Byte → Instr)) :
    List Byte → DecodeResult :=
  modrm (extension op sel) fun c rm r => fieldByte (c rm.ea8) r

/-- Group rows Ew,Iw. -/
def groupEwIw (op : Byte) (sel : BitVec 3 → Option (Ea16 → Word → Instr)) :
    List Byte → DecodeResult :=
  modrm (extension op sel) fun c rm r => fieldWord (c rm.ea16) r

/-- Group rows Ew,Ibs. -/
def groupEwIbs (op : Byte) (sel : BitVec 3 → Option (Ea16 → Byte → Instr)) :
    List Byte → DecodeResult :=
  modrm (extension op sel) fun c rm r => fieldByte (c rm.ea16) r

/-- F6: the extension TEST alone has an Ib (30_encoding.md R182). -/
def groupEbOptIb (op : Byte)
    (sel : BitVec 3 → Option ((Ea8 → Byte → Instr) ⊕ (Ea8 → Instr))) : List Byte → DecodeResult :=
  modrm (extension op sel) fun c rm r =>
    match c with
    | .inl c => fieldByte (c rm.ea8) r
    | .inr c => .ok (c rm.ea8, r)

/-- F7: the extension TEST alone has an Iw (30_encoding.md R182). -/
def groupEwOptIw (op : Byte)
    (sel : BitVec 3 → Option ((Ea16 → Word → Instr) ⊕ (Ea16 → Instr))) : List Byte → DecodeResult :=
  modrm (extension op sel) fun c rm r =>
    match c with
    | .inl c => fieldWord (c rm.ea16) r
    | .inr c => .ok (c rm.ea16, r)

/-! ## The group rows (30_encoding.md R182): the operation of each admitted extension -/

/-- Opcode 80 (R182). -/
def group80 (reg : BitVec 3) : Option (Ea8 → Byte → Instr) :=
  match reg.toNat with
  | 0 => some .addEbIb
  | 1 => some .orEbIb
  | 2 => some .adcEbIb
  | 3 => some .sbbEbIb
  | 4 => some .andEbIb
  | 5 => some .subEbIb
  | 6 => some .xorEbIb
  | _ => some .cmpEbIb

/-- Opcode 81 (R182). -/
def group81 (reg : BitVec 3) : Option (Ea16 → Word → Instr) :=
  match reg.toNat with
  | 0 => some .addEwIw
  | 1 => some .orEwIw
  | 2 => some .adcEwIw
  | 3 => some .sbbEwIw
  | 4 => some .andEwIw
  | 5 => some .subEwIw
  | 6 => some .xorEwIw
  | _ => some .cmpEwIw

/-- Opcode 83 (R182). -/
def group83 (reg : BitVec 3) : Option (Ea16 → Byte → Instr) :=
  match reg.toNat with
  | 0 => some .addEwIbs
  | 1 => some .orEwIbs
  | 2 => some .adcEwIbs
  | 3 => some .sbbEwIbs
  | 4 => some .andEwIbs
  | 5 => some .subEwIbs
  | 6 => some .xorEwIbs
  | _ => some .cmpEwIbs

/-- Opcode 8F (R182). -/
def group8F (reg : BitVec 3) : Option (Ea16 → Instr) :=
  match reg.toNat with
  | 0 => some .popEw
  | _ => none

/-- Opcode C6 (R182). -/
def groupC6 (reg : BitVec 3) : Option (Ea8 → Byte → Instr) :=
  match reg.toNat with
  | 0 => some .movEbIb
  | _ => none

/-- Opcode C7 (R182). -/
def groupC7 (reg : BitVec 3) : Option (Ea16 → Word → Instr) :=
  match reg.toNat with
  | 0 => some .movEwIw
  | _ => none

/-- Opcode D0 (R182). -/
def groupD0 (reg : BitVec 3) : Option (Ea8 → Instr) :=
  match reg.toNat with
  | 0 => some .rolEb1
  | 1 => some .rorEb1
  | 2 => some .rclEb1
  | 3 => some .rcrEb1
  | 4 => some .shlEb1
  | 5 => some .shrEb1
  | 7 => some .sarEb1
  | _ => none

/-- Opcode D1 (R182). -/
def groupD1 (reg : BitVec 3) : Option (Ea16 → Instr) :=
  match reg.toNat with
  | 0 => some .rolEw1
  | 1 => some .rorEw1
  | 2 => some .rclEw1
  | 3 => some .rcrEw1
  | 4 => some .shlEw1
  | 5 => some .shrEw1
  | 7 => some .sarEw1
  | _ => none

/-- Opcode D2 (R182). -/
def groupD2 (reg : BitVec 3) : Option (Ea8 → Instr) :=
  match reg.toNat with
  | 0 => some .rolEbCl
  | 1 => some .rorEbCl
  | 2 => some .rclEbCl
  | 3 => some .rcrEbCl
  | 4 => some .shlEbCl
  | 5 => some .shrEbCl
  | 7 => some .sarEbCl
  | _ => none

/-- Opcode D3 (R182). -/
def groupD3 (reg : BitVec 3) : Option (Ea16 → Instr) :=
  match reg.toNat with
  | 0 => some .rolEwCl
  | 1 => some .rorEwCl
  | 2 => some .rclEwCl
  | 3 => some .rcrEwCl
  | 4 => some .shlEwCl
  | 5 => some .shrEwCl
  | 7 => some .sarEwCl
  | _ => none

/-- Opcode F6 (R182). -/
def groupF6 (reg : BitVec 3) : Option ((Ea8 → Byte → Instr) ⊕ (Ea8 → Instr)) :=
  match reg.toNat with
  | 0 => some (.inl .testEbIb)
  | 2 => some (.inr .notEb)
  | 3 => some (.inr .negEb)
  | _ => none

/-- Opcode F7 (R182). -/
def groupF7 (reg : BitVec 3) : Option ((Ea16 → Word → Instr) ⊕ (Ea16 → Instr)) :=
  match reg.toNat with
  | 0 => some (.inl .testEwIw)
  | 2 => some (.inr .notEw)
  | 3 => some (.inr .negEw)
  | _ => none

/-- Opcode FE (R182). -/
def groupFE (reg : BitVec 3) : Option (Ea8 → Instr) :=
  match reg.toNat with
  | 0 => some .incEb
  | 1 => some .decEb
  | _ => none

/-- Opcode FF (R182). -/
def groupFF (reg : BitVec 3) : Option (Ea16 → Instr) :=
  match reg.toNat with
  | 0 => some .incEw
  | 1 => some .decEw
  | 2 => some .callEw
  | 4 => some .jmpEw
  | 6 => some .pushEw
  | _ => none

/-! ## The opcode map (30_encoding.md R180), one function per row of sixteen opcodes; a cell that
is not admitted is the unknown opcode (R181) -/

/-- Opcodes 00 to 0F (R180). -/
def opcodes0x (op : Byte) (r : List Byte) : DecodeResult :=
  match op.toNat % 16 with
  | 0 => modrmEbGb .addEbGb r
  | 1 => modrmEwGw .addEwGw r
  | 2 => modrmGbEb .addGbEb r
  | 3 => modrmGwEw .addGwEw r
  | 4 => fieldByte .addAlIb r
  | 5 => fieldWord .addAxIw r
  | 6 => .ok (.pushEs, r)
  | 7 => .ok (.popEs, r)
  | 8 => modrmEbGb .orEbGb r
  | 9 => modrmEwGw .orEwGw r
  | 10 => modrmGbEb .orGbEb r
  | 11 => modrmGwEw .orGwEw r
  | 12 => fieldByte .orAlIb r
  | 13 => fieldWord .orAxIw r
  | 14 => .ok (.pushCs, r)
  | _ => unknownOpcode op

/-- Opcodes 10 to 1F (R180). -/
def opcodes1x (op : Byte) (r : List Byte) : DecodeResult :=
  match op.toNat % 16 with
  | 0 => modrmEbGb .adcEbGb r
  | 1 => modrmEwGw .adcEwGw r
  | 2 => modrmGbEb .adcGbEb r
  | 3 => modrmGwEw .adcGwEw r
  | 4 => fieldByte .adcAlIb r
  | 5 => fieldWord .adcAxIw r
  | 6 => .ok (.pushSs, r)
  | 7 => .ok (.popSs, r)
  | 8 => modrmEbGb .sbbEbGb r
  | 9 => modrmEwGw .sbbEwGw r
  | 10 => modrmGbEb .sbbGbEb r
  | 11 => modrmGwEw .sbbGwEw r
  | 12 => fieldByte .sbbAlIb r
  | 13 => fieldWord .sbbAxIw r
  | 14 => .ok (.pushDs, r)
  | _ => .ok (.popDs, r)

/-- Opcodes 20 to 2F (R180). -/
def opcodes2x (op : Byte) (r : List Byte) : DecodeResult :=
  match op.toNat % 16 with
  | 0 => modrmEbGb .andEbGb r
  | 1 => modrmEwGw .andEwGw r
  | 2 => modrmGbEb .andGbEb r
  | 3 => modrmGwEw .andGwEw r
  | 4 => fieldByte .andAlIb r
  | 5 => fieldWord .andAxIw r
  | 6 => .ok (.esPrefix, r)
  | 8 => modrmEbGb .subEbGb r
  | 9 => modrmEwGw .subEwGw r
  | 10 => modrmGbEb .subGbEb r
  | 11 => modrmGwEw .subGwEw r
  | 12 => fieldByte .subAlIb r
  | 13 => fieldWord .subAxIw r
  | 14 => .ok (.csPrefix, r)
  | _ => unknownOpcode op

/-- Opcodes 30 to 3F (R180). -/
def opcodes3x (op : Byte) (r : List Byte) : DecodeResult :=
  match op.toNat % 16 with
  | 0 => modrmEbGb .xorEbGb r
  | 1 => modrmEwGw .xorEwGw r
  | 2 => modrmGbEb .xorGbEb r
  | 3 => modrmGwEw .xorGwEw r
  | 4 => fieldByte .xorAlIb r
  | 5 => fieldWord .xorAxIw r
  | 6 => .ok (.ssPrefix, r)
  | 8 => modrmEbGb .cmpEbGb r
  | 9 => modrmEwGw .cmpEwGw r
  | 10 => modrmGbEb .cmpGbEb r
  | 11 => modrmGwEw .cmpGwEw r
  | 12 => fieldByte .cmpAlIb r
  | 13 => fieldWord .cmpAxIw r
  | 14 => .ok (.dsPrefix, r)
  | _ => unknownOpcode op

/-- Opcodes 40 to 4F (R180). -/
def opcodes4x (op : Byte) (r : List Byte) : DecodeResult :=
  match op.toNat % 16 with
  | 0 => .ok (.incAx, r)
  | 1 => .ok (.incCx, r)
  | 2 => .ok (.incDx, r)
  | 3 => .ok (.incBx, r)
  | 4 => .ok (.incSp, r)
  | 5 => .ok (.incBp, r)
  | 6 => .ok (.incSi, r)
  | 7 => .ok (.incDi, r)
  | 8 => .ok (.decAx, r)
  | 9 => .ok (.decCx, r)
  | 10 => .ok (.decDx, r)
  | 11 => .ok (.decBx, r)
  | 12 => .ok (.decSp, r)
  | 13 => .ok (.decBp, r)
  | 14 => .ok (.decSi, r)
  | _ => .ok (.decDi, r)

/-- Opcodes 50 to 5F (R180). -/
def opcodes5x (op : Byte) (r : List Byte) : DecodeResult :=
  match op.toNat % 16 with
  | 0 => .ok (.pushAx, r)
  | 1 => .ok (.pushCx, r)
  | 2 => .ok (.pushDx, r)
  | 3 => .ok (.pushBx, r)
  | 4 => .ok (.pushSp, r)
  | 5 => .ok (.pushBp, r)
  | 6 => .ok (.pushSi, r)
  | 7 => .ok (.pushDi, r)
  | 8 => .ok (.popAx, r)
  | 9 => .ok (.popCx, r)
  | 10 => .ok (.popDx, r)
  | 11 => .ok (.popBx, r)
  | 12 => .ok (.popSp, r)
  | 13 => .ok (.popBp, r)
  | 14 => .ok (.popSi, r)
  | _ => .ok (.popDi, r)

/-- Opcodes 70 to 7F (R180). -/
def opcodes7x (op : Byte) (r : List Byte) : DecodeResult :=
  match op.toNat % 16 with
  | 0 => fieldByte .joJb r
  | 1 => fieldByte .jnoJb r
  | 2 => fieldByte .jbJb r
  | 3 => fieldByte .jnbJb r
  | 4 => fieldByte .jzJb r
  | 5 => fieldByte .jnzJb r
  | 6 => fieldByte .jbeJb r
  | 7 => fieldByte .jaJb r
  | 8 => fieldByte .jsJb r
  | 9 => fieldByte .jnsJb r
  | 10 => fieldByte .jpJb r
  | 11 => fieldByte .jnpJb r
  | 12 => fieldByte .jlJb r
  | 13 => fieldByte .jgeJb r
  | 14 => fieldByte .jleJb r
  | _ => fieldByte .jgJb r

/-- Opcodes 80 to 8F (R180). -/
def opcodes8x (op : Byte) (r : List Byte) : DecodeResult :=
  match op.toNat % 16 with
  | 0 => groupEbIb op group80 r
  | 1 => groupEwIw op group81 r
  | 3 => groupEwIbs op group83 r
  | 4 => modrmEbGb .testEbGb r
  | 5 => modrmEwGw .testEwGw r
  | 8 => modrmEbGb .movEbGb r
  | 9 => modrmEwGw .movEwGw r
  | 10 => modrmGbEb .movGbEb r
  | 11 => modrmGwEw .movGwEw r
  | 12 => modrmEwSw op .movEwSw r
  | 14 => modrmSwEw op .movSwEw r
  | 15 => groupEw op group8F r
  | _ => unknownOpcode op

/-- Opcodes 90 to 9F (R180). -/
def opcodes9x (op : Byte) (r : List Byte) : DecodeResult :=
  match op.toNat % 16 with
  | 0 => .ok (.nop, r)
  | 10 => fieldFar .callAp r
  | 12 => .ok (.pushf, r)
  | 13 => .ok (.popf, r)
  | _ => unknownOpcode op

/-- Opcodes A0 to AF (R180). -/
def opcodesAx (op : Byte) (r : List Byte) : DecodeResult :=
  match op.toNat % 16 with
  | 0 => fieldWord .movAlOb r
  | 1 => fieldWord .movAxOw r
  | 2 => fieldWord .movObAl r
  | 3 => fieldWord .movOwAx r
  | 8 => fieldByte .testAlIb r
  | 9 => fieldWord .testAxIw r
  | _ => unknownOpcode op

/-- Opcodes B0 to BF (R180). -/
def opcodesBx (op : Byte) (r : List Byte) : DecodeResult :=
  match op.toNat % 16 with
  | 0 => fieldByte .movAlIb r
  | 1 => fieldByte .movClIb r
  | 2 => fieldByte .movDlIb r
  | 3 => fieldByte .movBlIb r
  | 4 => fieldByte .movAhIb r
  | 5 => fieldByte .movChIb r
  | 6 => fieldByte .movDhIb r
  | 7 => fieldByte .movBhIb r
  | 8 => fieldWord .movAxIw r
  | 9 => fieldWord .movCxIw r
  | 10 => fieldWord .movDxIw r
  | 11 => fieldWord .movBxIw r
  | 12 => fieldWord .movSpIw r
  | 13 => fieldWord .movBpIw r
  | 14 => fieldWord .movSiIw r
  | _ => fieldWord .movDiIw r

/-- Opcodes C0 to CF (R180). -/
def opcodesCx (op : Byte) (r : List Byte) : DecodeResult :=
  match op.toNat % 16 with
  | 2 => fieldWord .retIw r
  | 3 => .ok (.ret, r)
  | 6 => groupEbIb op groupC6 r
  | 7 => groupEwIw op groupC7 r
  | 10 => fieldWord .retfIw r
  | 11 => .ok (.retf, r)
  | 12 => .ok (.int3, r)
  | 13 => fieldByte .intIb r
  | 14 => .ok (.into, r)
  | 15 => .ok (.iret, r)
  | _ => unknownOpcode op

/-- Opcodes D0 to DF (R180). -/
def opcodesDx (op : Byte) (r : List Byte) : DecodeResult :=
  match op.toNat % 16 with
  | 0 => groupEb op groupD0 r
  | 1 => groupEw op groupD1 r
  | 2 => groupEb op groupD2 r
  | 3 => groupEw op groupD3 r
  | _ => unknownOpcode op

/-- Opcodes E0 to EF (R180). -/
def opcodesEx (op : Byte) (r : List Byte) : DecodeResult :=
  match op.toNat % 16 with
  | 0 => fieldByte .loopnzJb r
  | 1 => fieldByte .loopzJb r
  | 2 => fieldByte .loopJb r
  | 3 => fieldByte .jcxzJb r
  | 4 => fieldByte .inAlIb r
  | 5 => fieldByte .inAxIb r
  | 6 => fieldByte .outIbAl r
  | 7 => fieldByte .outIbAx r
  | 8 => fieldWord .callJw r
  | 9 => fieldWord .jmpJw r
  | 10 => fieldFar .jmpAp r
  | 11 => fieldByte .jmpJb r
  | 12 => .ok (.inAlDx, r)
  | 13 => .ok (.inAxDx, r)
  | 14 => .ok (.outDxAl, r)
  | _ => .ok (.outDxAx, r)

/-- Opcodes F0 to FF (R180). -/
def opcodesFx (op : Byte) (r : List Byte) : DecodeResult :=
  match op.toNat % 16 with
  | 4 => .ok (.hlt, r)
  | 5 => .ok (.cmc, r)
  | 6 => groupEbOptIb op groupF6 r
  | 7 => groupEwOptIw op groupF7 r
  | 8 => .ok (.clc, r)
  | 9 => .ok (.stc, r)
  | 10 => .ok (.cli, r)
  | 11 => .ok (.sti, r)
  | 12 => .ok (.cld, r)
  | 13 => .ok (.std, r)
  | 14 => groupEb op groupFE r
  | 15 => groupEw op groupFF r
  | _ => unknownOpcode op

/-- Decode the instruction after the opcode byte `op` (30_encoding.md R180). Opcodes 60 to 6F are
not admitted (R181). -/
def decodeOpcode (op : Byte) (r : List Byte) : DecodeResult :=
  match op.toNat / 16 with
  | 0 => opcodes0x op r
  | 1 => opcodes1x op r
  | 2 => opcodes2x op r
  | 3 => opcodes3x op r
  | 4 => opcodes4x op r
  | 5 => opcodes5x op r
  | 7 => opcodes7x op r
  | 8 => opcodes8x op r
  | 9 => opcodes9x op r
  | 10 => opcodesAx op r
  | 11 => opcodesBx op r
  | 12 => opcodesCx op r
  | 13 => opcodesDx op r
  | 14 => opcodesEx op r
  | 15 => opcodesFx op r
  | _ => unknownOpcode op

/-- The decoder: the instruction (a prefix byte is one, R140) that a list of bytes begins with and
the bytes after it, or the refusal by name. Total (30_encoding.md R184). -/
def decode : List Byte → DecodeResult
  | [] => .error .truncated
  | op :: r => decodeOpcode op r

/-! ## Facts of the opcode map that the parameters of 00_scope.md R10 need -/

/-- The four segment-override bytes (30_encoding.md R140). -/
def isPrefixByte (b : Byte) : Bool :=
  b == 0x26#8 || b == 0x2E#8 || b == 0x36#8 || b == 0x3E#8

/-- The opcodes followed by a ModRM byte (30_encoding.md R180). -/
def hasModrm (op : Byte) : Bool :=
  let n := op.toNat
  (n < 0x40 && n % 8 < 4) || n == 0x80 || n == 0x81 || (0x83 ≤ n && n ≤ 0x85)
    || (0x88 ≤ n && n ≤ 0x8C) || n == 0x8E || n == 0x8F || n == 0xC6 || n == 0xC7
    || (0xD0 ≤ n && n ≤ 0xD3) || n == 0xF6 || n == 0xF7 || n == 0xFE || n == 0xFF

/-- The opcodes whose reg field selects the operation (30_encoding.md R182). -/
def isGroup (op : Byte) : Bool :=
  let n := op.toNat
  n == 0x80 || n == 0x81 || n == 0x83 || n == 0x8F || n == 0xC6 || n == 0xC7
    || (0xD0 ≤ n && n ≤ 0xD3) || n == 0xF6 || n == 0xF7 || n == 0xFE || n == 0xFF

/-- The fault that the parameters add to an instruction the decoder reads (30_encoding.md R131,
R185): a memory form the row does not implement, then the row of a prefix byte or of the instruction
that is not implemented (00_scope.md R10). `prefixes` are the prefix bytes read before the
instruction, of which the first removed one is recorded (log entry 15); `bytes` are the opcode, the
byte after it, and the rest. -/
def parameterFault (c : Config) (prefixes bytes : List Byte) : Option EmulationFault :=
  let op := bytes.headD 0
  let m := bytes.tail.headD 0
  let reg := if hasModrm op then some (regField m) else none
  let row : RowId := ⟨op, if isGroup op then reg else none⟩
  if hasModrm op && modField m != 3#2 && c.regOnlyRows.contains row then
    some (.unimplementedAddressing op (regField m))
  else
    match prefixes.find? fun b => c.removedRows.contains ⟨b, none⟩ with
    | some b => some (.notImplemented b none)
    | none => if c.removedRows.contains row then some (.notImplemented op reg) else none

/-! ## The encoder -/

/-- A word's two bytes, low byte first (30_encoding.md R170). -/
def wordBytes (w : Word) : List Byte := [loByte w, hiByte w]

/-- ModRM byte and displacement of a memory operand (30_encoding.md R150, R151). -/
def MemOp.bytes (reg : BitVec 3) : MemOp → List Byte
  | .direct off => modrmByte 0 reg 6 :: wordBytes off
  | .based b .none => [modrmByte 0 reg b.code]
  | .based b (.d8 d) => [modrmByte 1 reg b.code, d]
  | .based b (.d16 d) => modrmByte 2 reg b.code :: wordBytes d

/-- ModRM byte and displacement of an Eb operand (30_encoding.md R153). -/
def Ea8.bytes (reg : BitVec 3) : Ea8 → List Byte
  | .reg r => [modrmByte 3 reg r.code]
  | .mem m => m.bytes reg

/-- ModRM byte and displacement of an Ew operand (30_encoding.md R153). -/
def Ea16.bytes (reg : BitVec 3) : Ea16 → List Byte
  | .reg r => [modrmByte 3 reg r.code]
  | .mem m => m.bytes reg

/-- The bytes of an instruction, by the same table (30_encoding.md R180, R182, R186). -/
def encode : Instr → List Byte
  | .addEbGb e g => 0x00 :: e.bytes g.code
  | .addEwGw e g => 0x01 :: e.bytes g.code
  | .addGbEb g e => 0x02 :: e.bytes g.code
  | .addGwEw g e => 0x03 :: e.bytes g.code
  | .addAlIb imm => [0x04, imm]
  | .addAxIw imm => 0x05 :: wordBytes imm
  | .orEbGb e g => 0x08 :: e.bytes g.code
  | .orEwGw e g => 0x09 :: e.bytes g.code
  | .orGbEb g e => 0x0A :: e.bytes g.code
  | .orGwEw g e => 0x0B :: e.bytes g.code
  | .orAlIb imm => [0x0C, imm]
  | .orAxIw imm => 0x0D :: wordBytes imm
  | .adcEbGb e g => 0x10 :: e.bytes g.code
  | .adcEwGw e g => 0x11 :: e.bytes g.code
  | .adcGbEb g e => 0x12 :: e.bytes g.code
  | .adcGwEw g e => 0x13 :: e.bytes g.code
  | .adcAlIb imm => [0x14, imm]
  | .adcAxIw imm => 0x15 :: wordBytes imm
  | .sbbEbGb e g => 0x18 :: e.bytes g.code
  | .sbbEwGw e g => 0x19 :: e.bytes g.code
  | .sbbGbEb g e => 0x1A :: e.bytes g.code
  | .sbbGwEw g e => 0x1B :: e.bytes g.code
  | .sbbAlIb imm => [0x1C, imm]
  | .sbbAxIw imm => 0x1D :: wordBytes imm
  | .andEbGb e g => 0x20 :: e.bytes g.code
  | .andEwGw e g => 0x21 :: e.bytes g.code
  | .andGbEb g e => 0x22 :: e.bytes g.code
  | .andGwEw g e => 0x23 :: e.bytes g.code
  | .andAlIb imm => [0x24, imm]
  | .andAxIw imm => 0x25 :: wordBytes imm
  | .subEbGb e g => 0x28 :: e.bytes g.code
  | .subEwGw e g => 0x29 :: e.bytes g.code
  | .subGbEb g e => 0x2A :: e.bytes g.code
  | .subGwEw g e => 0x2B :: e.bytes g.code
  | .subAlIb imm => [0x2C, imm]
  | .subAxIw imm => 0x2D :: wordBytes imm
  | .xorEbGb e g => 0x30 :: e.bytes g.code
  | .xorEwGw e g => 0x31 :: e.bytes g.code
  | .xorGbEb g e => 0x32 :: e.bytes g.code
  | .xorGwEw g e => 0x33 :: e.bytes g.code
  | .xorAlIb imm => [0x34, imm]
  | .xorAxIw imm => 0x35 :: wordBytes imm
  | .cmpEbGb e g => 0x38 :: e.bytes g.code
  | .cmpEwGw e g => 0x39 :: e.bytes g.code
  | .cmpGbEb g e => 0x3A :: e.bytes g.code
  | .cmpGwEw g e => 0x3B :: e.bytes g.code
  | .cmpAlIb imm => [0x3C, imm]
  | .cmpAxIw imm => 0x3D :: wordBytes imm
  | .addEbIb e imm => 0x80 :: (e.bytes 0 ++ [imm])
  | .addEwIw e imm => 0x81 :: (e.bytes 0 ++ wordBytes imm)
  | .addEwIbs e imm => 0x83 :: (e.bytes 0 ++ [imm])
  | .orEbIb e imm => 0x80 :: (e.bytes 1 ++ [imm])
  | .orEwIw e imm => 0x81 :: (e.bytes 1 ++ wordBytes imm)
  | .orEwIbs e imm => 0x83 :: (e.bytes 1 ++ [imm])
  | .adcEbIb e imm => 0x80 :: (e.bytes 2 ++ [imm])
  | .adcEwIw e imm => 0x81 :: (e.bytes 2 ++ wordBytes imm)
  | .adcEwIbs e imm => 0x83 :: (e.bytes 2 ++ [imm])
  | .sbbEbIb e imm => 0x80 :: (e.bytes 3 ++ [imm])
  | .sbbEwIw e imm => 0x81 :: (e.bytes 3 ++ wordBytes imm)
  | .sbbEwIbs e imm => 0x83 :: (e.bytes 3 ++ [imm])
  | .andEbIb e imm => 0x80 :: (e.bytes 4 ++ [imm])
  | .andEwIw e imm => 0x81 :: (e.bytes 4 ++ wordBytes imm)
  | .andEwIbs e imm => 0x83 :: (e.bytes 4 ++ [imm])
  | .subEbIb e imm => 0x80 :: (e.bytes 5 ++ [imm])
  | .subEwIw e imm => 0x81 :: (e.bytes 5 ++ wordBytes imm)
  | .subEwIbs e imm => 0x83 :: (e.bytes 5 ++ [imm])
  | .xorEbIb e imm => 0x80 :: (e.bytes 6 ++ [imm])
  | .xorEwIw e imm => 0x81 :: (e.bytes 6 ++ wordBytes imm)
  | .xorEwIbs e imm => 0x83 :: (e.bytes 6 ++ [imm])
  | .cmpEbIb e imm => 0x80 :: (e.bytes 7 ++ [imm])
  | .cmpEwIw e imm => 0x81 :: (e.bytes 7 ++ wordBytes imm)
  | .cmpEwIbs e imm => 0x83 :: (e.bytes 7 ++ [imm])
  | .pushEs => [0x06]
  | .popEs => [0x07]
  | .pushCs => [0x0E]
  | .pushSs => [0x16]
  | .popSs => [0x17]
  | .pushDs => [0x1E]
  | .popDs => [0x1F]
  | .esPrefix => [0x26]
  | .csPrefix => [0x2E]
  | .ssPrefix => [0x36]
  | .dsPrefix => [0x3E]
  | .incAx => [0x40]
  | .incCx => [0x41]
  | .incDx => [0x42]
  | .incBx => [0x43]
  | .incSp => [0x44]
  | .incBp => [0x45]
  | .incSi => [0x46]
  | .incDi => [0x47]
  | .decAx => [0x48]
  | .decCx => [0x49]
  | .decDx => [0x4A]
  | .decBx => [0x4B]
  | .decSp => [0x4C]
  | .decBp => [0x4D]
  | .decSi => [0x4E]
  | .decDi => [0x4F]
  | .pushAx => [0x50]
  | .pushCx => [0x51]
  | .pushDx => [0x52]
  | .pushBx => [0x53]
  | .pushSp => [0x54]
  | .pushBp => [0x55]
  | .pushSi => [0x56]
  | .pushDi => [0x57]
  | .popAx => [0x58]
  | .popCx => [0x59]
  | .popDx => [0x5A]
  | .popBx => [0x5B]
  | .popSp => [0x5C]
  | .popBp => [0x5D]
  | .popSi => [0x5E]
  | .popDi => [0x5F]
  | .joJb d => [0x70, d]
  | .jnoJb d => [0x71, d]
  | .jbJb d => [0x72, d]
  | .jnbJb d => [0x73, d]
  | .jzJb d => [0x74, d]
  | .jnzJb d => [0x75, d]
  | .jbeJb d => [0x76, d]
  | .jaJb d => [0x77, d]
  | .jsJb d => [0x78, d]
  | .jnsJb d => [0x79, d]
  | .jpJb d => [0x7A, d]
  | .jnpJb d => [0x7B, d]
  | .jlJb d => [0x7C, d]
  | .jgeJb d => [0x7D, d]
  | .jleJb d => [0x7E, d]
  | .jgJb d => [0x7F, d]
  | .testEbGb e g => 0x84 :: e.bytes g.code
  | .testEwGw e g => 0x85 :: e.bytes g.code
  | .movEbGb e g => 0x88 :: e.bytes g.code
  | .movEwGw e g => 0x89 :: e.bytes g.code
  | .movGbEb g e => 0x8A :: e.bytes g.code
  | .movGwEw g e => 0x8B :: e.bytes g.code
  | .movEwSw e sr => 0x8C :: e.bytes sr.code3
  | .movSwEw sr e => 0x8E :: e.bytes sr.code3
  | .popEw e => 0x8F :: e.bytes 0
  | .nop => [0x90]
  | .callAp off seg => 0x9A :: (wordBytes off ++ wordBytes seg)
  | .pushf => [0x9C]
  | .popf => [0x9D]
  | .movAlOb off => 0xA0 :: wordBytes off
  | .movAxOw off => 0xA1 :: wordBytes off
  | .movObAl off => 0xA2 :: wordBytes off
  | .movOwAx off => 0xA3 :: wordBytes off
  | .testAlIb imm => [0xA8, imm]
  | .testAxIw imm => 0xA9 :: wordBytes imm
  | .movAlIb imm => [0xB0, imm]
  | .movClIb imm => [0xB1, imm]
  | .movDlIb imm => [0xB2, imm]
  | .movBlIb imm => [0xB3, imm]
  | .movAhIb imm => [0xB4, imm]
  | .movChIb imm => [0xB5, imm]
  | .movDhIb imm => [0xB6, imm]
  | .movBhIb imm => [0xB7, imm]
  | .movAxIw imm => 0xB8 :: wordBytes imm
  | .movCxIw imm => 0xB9 :: wordBytes imm
  | .movDxIw imm => 0xBA :: wordBytes imm
  | .movBxIw imm => 0xBB :: wordBytes imm
  | .movSpIw imm => 0xBC :: wordBytes imm
  | .movBpIw imm => 0xBD :: wordBytes imm
  | .movSiIw imm => 0xBE :: wordBytes imm
  | .movDiIw imm => 0xBF :: wordBytes imm
  | .retIw imm => 0xC2 :: wordBytes imm
  | .ret => [0xC3]
  | .movEbIb e imm => 0xC6 :: (e.bytes 0 ++ [imm])
  | .movEwIw e imm => 0xC7 :: (e.bytes 0 ++ wordBytes imm)
  | .retfIw imm => 0xCA :: wordBytes imm
  | .retf => [0xCB]
  | .int3 => [0xCC]
  | .intIb n => [0xCD, n]
  | .into => [0xCE]
  | .iret => [0xCF]
  | .rolEb1 e => 0xD0 :: e.bytes 0
  | .rolEw1 e => 0xD1 :: e.bytes 0
  | .rolEbCl e => 0xD2 :: e.bytes 0
  | .rolEwCl e => 0xD3 :: e.bytes 0
  | .rorEb1 e => 0xD0 :: e.bytes 1
  | .rorEw1 e => 0xD1 :: e.bytes 1
  | .rorEbCl e => 0xD2 :: e.bytes 1
  | .rorEwCl e => 0xD3 :: e.bytes 1
  | .rclEb1 e => 0xD0 :: e.bytes 2
  | .rclEw1 e => 0xD1 :: e.bytes 2
  | .rclEbCl e => 0xD2 :: e.bytes 2
  | .rclEwCl e => 0xD3 :: e.bytes 2
  | .rcrEb1 e => 0xD0 :: e.bytes 3
  | .rcrEw1 e => 0xD1 :: e.bytes 3
  | .rcrEbCl e => 0xD2 :: e.bytes 3
  | .rcrEwCl e => 0xD3 :: e.bytes 3
  | .shlEb1 e => 0xD0 :: e.bytes 4
  | .shlEw1 e => 0xD1 :: e.bytes 4
  | .shlEbCl e => 0xD2 :: e.bytes 4
  | .shlEwCl e => 0xD3 :: e.bytes 4
  | .shrEb1 e => 0xD0 :: e.bytes 5
  | .shrEw1 e => 0xD1 :: e.bytes 5
  | .shrEbCl e => 0xD2 :: e.bytes 5
  | .shrEwCl e => 0xD3 :: e.bytes 5
  | .sarEb1 e => 0xD0 :: e.bytes 7
  | .sarEw1 e => 0xD1 :: e.bytes 7
  | .sarEbCl e => 0xD2 :: e.bytes 7
  | .sarEwCl e => 0xD3 :: e.bytes 7
  | .loopnzJb d => [0xE0, d]
  | .loopzJb d => [0xE1, d]
  | .loopJb d => [0xE2, d]
  | .jcxzJb d => [0xE3, d]
  | .inAlIb port => [0xE4, port]
  | .inAxIb port => [0xE5, port]
  | .outIbAl port => [0xE6, port]
  | .outIbAx port => [0xE7, port]
  | .callJw d => 0xE8 :: wordBytes d
  | .jmpJw d => 0xE9 :: wordBytes d
  | .jmpAp off seg => 0xEA :: (wordBytes off ++ wordBytes seg)
  | .jmpJb d => [0xEB, d]
  | .inAlDx => [0xEC]
  | .inAxDx => [0xED]
  | .outDxAl => [0xEE]
  | .outDxAx => [0xEF]
  | .hlt => [0xF4]
  | .cmc => [0xF5]
  | .testEbIb e imm => 0xF6 :: (e.bytes 0 ++ [imm])
  | .notEb e => 0xF6 :: e.bytes 2
  | .negEb e => 0xF6 :: e.bytes 3
  | .testEwIw e imm => 0xF7 :: (e.bytes 0 ++ wordBytes imm)
  | .notEw e => 0xF7 :: e.bytes 2
  | .negEw e => 0xF7 :: e.bytes 3
  | .clc => [0xF8]
  | .stc => [0xF9]
  | .cli => [0xFA]
  | .sti => [0xFB]
  | .cld => [0xFC]
  | .std => [0xFD]
  | .incEb e => 0xFE :: e.bytes 0
  | .decEb e => 0xFE :: e.bytes 1
  | .incEw e => 0xFF :: e.bytes 0
  | .decEw e => 0xFF :: e.bytes 1
  | .callEw e => 0xFF :: e.bytes 2
  | .jmpEw e => 0xFF :: e.bytes 4
  | .pushEw e => 0xFF :: e.bytes 6

/-- `len` of one instruction without its prefixes (30_encoding.md R172): the number of its bytes. -/
def Instr.len (i : Instr) : Nat := (encode i).length

/-! ## The opcode table's numbering -/

/-- The longest admitted instruction without prefixes (30_encoding.md R172). -/
def maxInstrBytes : Nat := 6

/-- The bytes of a word numbered as spec/opcode_table.json numbers it, zero above `nbits`, up to
the longest instruction. A row of one byte is its bits 7:0; a row of two (opcode and ModRM, match
0xD038 and the like) has the opcode in bits 15:8 and the ModRM byte in bits 7:0; any further byte
follows from bit 16 on (log entry 16). -/
def tableBytes (nbits w : Nat) : List Byte :=
  let v := w % 2 ^ nbits
  let byte (k : Nat) : Byte := BitVec.ofNat 8 (v / 2 ^ (8 * k))
  if nbits ≤ 8 then [byte 0, byte 1, byte 2, byte 3, byte 4, byte 5]
  else [byte 1, byte 0, byte 2, byte 3, byte 4, byte 5]

/-- The instruction the decoder reads from a word of the opcode table. -/
def decodeTableWord (nbits w : Nat) : Option Instr :=
  match decode (tableBytes nbits w) with
  | .ok (i, _) => some i
  | .error _ => none

end Sys2Proof
end

