-- ==== Sys2Proof/Machine/State.lean ====
section
/-! DEFINITION. The machine's state as plain data (10_state.md), the reasons it stops, and the state
after reset. -/

namespace Sys2Proof.Machine

/-! ## The CPU (10_state.md sections 1 to 3) -/

/-- The register file: fourteen 16-bit slots (10_state.md R30). -/
structure Regs where
  ax : Word
  cx : Word
  dx : Word
  bx : Word
  sp : Word
  bp : Word
  si : Word
  di : Word
  es : Word
  cs : Word
  ss : Word
  ds : Word
  ip : Word
  flags : Word
deriving DecidableEq, Repr

/-- A slot of the register file (10_state.md R30). -/
inductive Slot
  | gen (r : Reg16)
  | seg (r : SReg)
  | ip
  | flags
deriving DecidableEq, Repr

/-- An entry of the diagnostic log (10_state.md R41): the trace record of a decoded instruction with
the segment override in force (30_encoding.md R132), or a fault entry with the CS:IP of the
instruction's first byte (60_exceptions.md R400). The text of an entry is any value
(93_implementation_defined.md U2, log entry 14). -/
inductive LogEntry
  | trace (segOvr : Option SReg) (i : Instr)
  | fault (reason : EmulationFault) (cs ip : Word)
deriving DecidableEq, Repr

/-! ## The interval timer (10_state.md section 4) -/

/-- A channel's mode, 0 to 5 (10_state.md R43). -/
inductive TimerMode | m0 | m1 | m2 | m3 | m4 | m5
deriving DecidableEq, Repr

/-- A channel's access mode (10_state.md R43). -/
inductive AccessMode | lo | hi | lohi
deriving DecidableEq, Repr

/-- One timer channel: the state the source names (10_state.md R43) and the hidden flags
(10_state.md R44). -/
structure Channel where
  mode : TimerMode
  access : AccessMode
  gate : Bool
  out : Bool
  setValue : Word
  counter : Word
  latch : Word
  latchArmed : Bool
  writeHigh : Bool
  readHigh : Bool
  writeIncomplete : Bool
  loadPending : Bool
  triggerPending : Bool
  counting : Bool
  halfFirst : Bool
  strobeArmed : Bool
deriving DecidableEq, Repr

/-- The number of a timer channel (10_state.md R42). -/
inductive ChannelId | c0 | c1 | c2
deriving DecidableEq, Repr

/-- The timer: three channels and the byte of port 0x61 (10_state.md R42). -/
structure Pit where
  ch0 : Channel
  ch1 : Channel
  ch2 : Channel
  p61 : Byte
deriving DecidableEq, Repr

/-! ## The interrupt controller (10_state.md section 5) -/

/-- The word the controller waits for (10_state.md R47). -/
inductive PicStage | idle | expectIcw2 | expectIcw3 | expectIcw4 | done
deriving DecidableEq, Repr

/-- Which register a read of the command port returns (10_state.md R49). -/
inductive ReadSelect | irr | isr
deriving DecidableEq, Repr

/-- The interrupt controller (10_state.md R46 to R49). -/
structure Pic where
  imr : Byte
  irr : Byte
  isr : Byte
  stage : PicStage
  single : Bool
  needIcw4 : Bool
  vectorBase : Byte
  cascade : Byte
  autoEoi : Bool
  buffered : Bool
  nested : Bool
  readSelect : ReadSelect
deriving DecidableEq, Repr

/-! ## Memory and the host -/

/-- The byte content of the regions (10_state.md R50): the cells by rising linear address, none of
which holds what an unlisted address reads as. Both regions share the list, since the router sends
each address to one region only (log entry 18). -/
abbrev Memory := List Host.Cell

/-- A gate the host sets directly: channel 0 or 1 (60_exceptions.md R540; log entry 20). -/
inductive HostGate | gate0 | gate1
deriving DecidableEq, Repr

/-- A call the host may make (60_exceptions.md R540). -/
inductive HostCall
  | execute
  | tick
  | deliverInterrupt
  | setInterrupt (irq : Nat)
  | acknowledgeInterrupt
  | setGate (g : HostGate) (level : Nat)
deriving DecidableEq, Repr

/-! ## The whole state -/

/-- The machine. `regs` to `cfg` are the spec's; the fields after them are the model's own:
`segOvr` and `prefixLen` are the variables of 30_encoding.md R131 while prefixes are read (log
entry 9), `draws` numbers the free flag values (log entry 7), `schedule` lists the host's calls to
come (log entry 12), `hostReply` is its last answer (log entry 13). -/
structure State where
  /-- The register file (10_state.md R30). -/
  regs : Regs
  /-- The diagnostic log, oldest first (10_state.md R41). -/
  log : List LogEntry
  /-- The fault status (10_state.md R41). -/
  faultStatus : Bool
  /-- The timer (10_state.md R42). -/
  pit : Pit
  /-- The interrupt controller (10_state.md R46). -/
  pic : Pic
  /-- The regions' bytes (10_state.md R50). -/
  mem : Memory
  /-- The parameters (00_scope.md R8 to R10), fixed after construction. -/
  cfg : Config
  /-- `seg_ovr` of 30_encoding.md R131; none between two instructions. -/
  segOvr : Option SReg
  /-- The prefix bytes this `execute()` has consumed; zero between two instructions. -/
  prefixLen : Word
  /-- How many shift draws have been taken (42_shift_rotate.md R309). -/
  draws : Nat
  /-- The host's calls still to come; when empty, a step is `execute()`. -/
  schedule : List HostCall
  /-- What the last direct `acknowledgeInterrupt()` gave the host: a vector or none. -/
  hostReply : Option Byte
deriving DecidableEq, Repr

/-- Why a step stops the machine. -/
inductive Fault
  /-- `execute()` was called after an emulation fault: it has no step (60_exceptions.md R403).
  Raised by `execute`. Safe: the machine stops where the spec gives no meaning. -/
  | executeAfterFault
  /-- All 65536 offsets of the code segment hold prefix bytes, so the prefix loop of
  30_encoding.md R131 never ends. Raised by `runCycle`. Safe (log entry 10). -/
  | endlessPrefixes
deriving DecidableEq, Repr

/-- Why a step has no meaning in the model. -/
inductive Refusal
  /-- An instruction without a meaning yet, by its mnemonic. Raised by arms of `exec`. Safe. -/
  | notModelled (mnemonic : String)
  /-- The decoder was handed too few bytes. Raised by `runCycle`, which hands it six, so never.
  Safe (log entry 11). -/
  | truncatedFetch
deriving DecidableEq, Repr

/-- What a step or a meaning answers. -/
abbrev Result := Host.Outcome State Fault Refusal

/-! ## Reset (10_state.md section 7, 70_reset_and_hazards.md R551) -/

/-- A channel at reset with the given gate (10_state.md R52). -/
def Channel.reset (gate : Bool) : Channel where
  mode := .m0
  access := .lohi
  gate := gate
  out := false
  setValue := 0
  counter := 0
  latch := 0
  latchArmed := false
  writeHigh := false
  readHigh := false
  writeIncomplete := false
  loadPending := false
  triggerPending := false
  counting := false
  halfFirst := false
  strobeArmed := false

/-- The timer at reset (10_state.md R52). -/
def Pit.reset : Pit where
  ch0 := Channel.reset true
  ch1 := Channel.reset true
  ch2 := Channel.reset false
  p61 := 0

/-- The interrupt controller at reset (10_state.md R53). -/
def Pic.reset : Pic where
  imr := 0
  irr := 0
  isr := 0
  stage := .idle
  single := false
  needIcw4 := false
  vectorBase := 0
  cascade := 0
  autoEoi := false
  buffered := false
  nested := false
  readSelect := .irr

/-- The register file at reset under parameters `c` (10_state.md R51). The eleven registers of
`INIT_REGS` are zero: DESIGN CHOICE, log entry 1. -/
def Regs.reset (c : Config) : Regs where
  ax := 0
  cx := 0
  dx := 0
  bx := 0
  sp := 0
  bp := 0
  si := 0
  di := 0
  es := 0
  cs := c.bootCs
  ss := 0
  ds := 0
  ip := c.bootIp
  flags := c.flagsAlwaysSet

/-- The machine constructed under parameters `c`, with nothing listed in memory. -/
def State.resetWith (c : Config) : State where
  regs := Regs.reset c
  log := []
  faultStatus := false
  pit := Pit.reset
  pic := Pic.reset
  mem := []
  cfg := c
  segOvr := none
  prefixLen := 0
  draws := 0
  schedule := []
  hostReply := none

/-- The machine right after reset, under the spec's defaults (70_reset_and_hazards.md R551). -/
def State.reset : State := State.resetWith Config.default

end Sys2Proof.Machine
end

