-- ==== Sys2Proof/Machine/Memory.lean ====
section
/-! DEFINITION. Memory as canonical data, the address primitives of 00_scope.md R15 and the router
of 20_memory.md R86 to R90. -/

namespace Sys2Proof.Machine

/-! ## The list of cells -/

/-- What an address that is not listed reads as: `INIT_RAM` and a BIOS image not yet provided are
0x00 (10_state.md R54; DESIGN CHOICE, log entries 2 and 3). -/
def Memory.unlisted : Byte := 0x00#8

/-- The canonical form: addresses strictly rising, no cell equal to what an unlisted address reads
as. -/
def Memory.wf : Memory → Bool
  | [] => true
  | [(_, v)] => v != Memory.unlisted
  | (a, v) :: (b, w) :: r => v != Memory.unlisted && decide (a < b) && Memory.wf ((b, w) :: r)

/-- The byte at an address. -/
def Memory.read : Memory → Nat → Byte
  | [], _ => Memory.unlisted
  | (b, w) :: r, a => if a = b then w else Memory.read r a

/-- Store a byte, keeping the canonical form. -/
def Memory.write : Memory → Nat → Byte → Memory
  | [], a, v => if v = Memory.unlisted then [] else [(a, v)]
  | (b, w) :: r, a, v =>
    if a < b then
      if v = Memory.unlisted then (b, w) :: r else (a, v) :: (b, w) :: r
    else if a = b then
      if v = Memory.unlisted then r else (a, v) :: r
    else (b, w) :: Memory.write r a v

/-- Store a run of bytes from an address on. -/
def Memory.load (m : Memory) (a : Nat) : List Byte → Memory
  | [] => m
  | v :: r => Memory.load (m.write a v) (a + 1) r

/-! ## Addresses and routing -/

/-- The regions of the memory map (20_memory.md R87). -/
inductive Region | ram | bios
deriving DecidableEq, Repr

/-- The region that owns a linear address: the last added that contains it, so the BIOS before the
RAM, or none (20_memory.md R86, R87). -/
def route (c : Config) (a : Nat) : Option Region :=
  if c.biosBase ≤ a ∧ a < c.biosBase + c.biosSize then some .bios
  else if a < c.ramSize then some .ram
  else none

/-- `lin(seg, off)` (00_scope.md R15, 20_memory.md R84). -/
def linear (c : Config) (seg off : Word) : Nat :=
  let a := seg.toNat * 16 + off.toNat
  if c.a20Wrap then a % 0x100000 else a

/-- The linear address after `a`, as the host's word accesses take it (20_memory.md R88). -/
def nextLinear (c : Config) (a : Nat) : Nat :=
  if c.a20Wrap then (a + 1) % 0x100000 else a + 1

/-- Whether a store to a linear address has an effect (20_memory.md R88, R90). -/
def writable (c : Config) (a : Nat) : Bool :=
  match route c a with
  | some .ram => true
  | some .bios => c.biosWritable
  | none => false

/-- `MemRead(a, 1)` (20_memory.md R88). -/
def State.memRead (s : State) (a : Nat) : Byte :=
  match route s.cfg a with
  | some _ => s.mem.read a
  | none => Config.unmappedRead

/-- `MemWrite(a, 1, v)` (20_memory.md R88). -/
def State.memWrite (s : State) (a : Nat) (v : Byte) : State :=
  if writable s.cfg a then { s with mem := s.mem.write a v } else s

/-- `MemRead(a, 2)`, "used only by the host" (20_memory.md R88). -/
def State.memReadWord (s : State) (a : Nat) : Word :=
  wordOf (s.memRead a) (s.memRead (nextLinear s.cfg a))

/-- `MemWrite(a, 2, v)` (20_memory.md R88). -/
def State.memWriteWord (s : State) (a : Nat) (v : Word) : State :=
  (s.memWrite a (loByte v)).memWrite (nextLinear s.cfg a) (hiByte v)

/-- `ReadMem(seg, off, 8)` (20_memory.md R89). -/
def State.readMem8 (s : State) (seg off : Word) : Byte := s.memRead (linear s.cfg seg off)

/-- `ReadMem(seg, off, 16)`: the second byte is at `off +16 1` of the same segment
(20_memory.md R89). -/
def State.readMem16 (s : State) (seg off : Word) : Word :=
  wordOf (s.readMem8 seg off) (s.readMem8 seg (off + 1#16))

/-- `WriteMem(seg, off, 8, v)` (20_memory.md R89). -/
def State.writeMem8 (s : State) (seg off : Word) (v : Byte) : State :=
  s.memWrite (linear s.cfg seg off) v

/-- `WriteMem(seg, off, 16, v)`: low byte first (20_memory.md R89). -/
def State.writeMem16 (s : State) (seg off : Word) (v : Word) : State :=
  (s.writeMem8 seg off (loByte v)).writeMem8 seg (off + 1#16) (hiByte v)

end Sys2Proof.Machine
end

