-- ==== Sys2Proof/Machine/Construct.lean ====
section
/-! DEFINITION. Construction, the host's first call (60_exceptions.md R540, 70_reset_and_hazards.md
R550), and placing bytes in memory from outside the machine. -/

namespace Sys2Proof.Machine

/-- Construction (70_reset_and_hazards.md R550, R551): the parameters, `INIT_REGS` (of `init` the
eleven registers that R51 names), `INIT_RAM` from linear 0 and `BIOS_IMAGE` at `BIOS_BASE`, whose
length is the BIOS region's. -/
def State.construct (c : Config) (init : Regs) (initRam biosImage : List Byte) : State :=
  let c : Config := { c with biosSize := biosImage.length }
  { State.resetWith c with
    regs := { init with cs := c.bootCs, ip := c.bootIp, flags := c.flagsAlwaysSet }
    mem := (Memory.load [] 0 initRam).load c.biosBase biosImage }

/-- Put bytes at an offset of a segment, each at its own linear address, whatever region owns it. -/
def State.place (s : State) (seg off : Word) : List Byte → State
  | [] => s
  | v :: r =>
    State.place { s with mem := s.mem.write (linear s.cfg seg off) v } seg (off + 1#16) r

end Sys2Proof.Machine
end

