-- ==== Sys2Proof/Machine/Flags.lean ====
section
/-! DEFINITION. Every flag computation of the spec, on FLAGS as a word: the write rule
(10_state.md R40), the result, addition, subtraction and logic flags (41_arithmetic_logic.md R250 to
R254), the eight ALU operations (R255 to R263), the shift group's bit steps and flags
(42_shift_rotate.md R301 to R309) and the jump conditions (43_control_transfer.md R342). -/

namespace Sys2Proof.Machine

/-! ## FLAGS -/

/-- The flags (10_state.md R35); `ifl` is IF and `ofl` is OF. -/
inductive Flag | cf | pf | af | zf | sf | tf | ifl | df | ofl
deriving DecidableEq, Repr

/-- The bit of a flag (10_state.md R35). -/
def Flag.pos : Flag → Nat
  | .cf => 0 | .pf => 2 | .af => 4 | .zf => 6 | .sf => 7 | .tf => 8 | .ifl => 9 | .df => 10
  | .ofl => 11

/-- `FLAGS_ALWAYS_CLEAR`: bits 3 and 5 (10_state.md R36). -/
def flagsAlwaysClear : Word := 0x0028#16

/-- The flags write rule under the mask `set` = `FLAGS_ALWAYS_SET` (10_state.md R40). -/
def flagsRule (set v : Word) : Word := (v &&& ~~~flagsAlwaysClear) ||| set

/-- A flag of a FLAGS word. -/
def getFlag (f : Flag) (v : Word) : Bool := v.getLsbD f.pos

/-- `setFlag(F, b)` (10_state.md R40). -/
def putFlag (set : Word) (f : Flag) (b : Bool) (v : Word) : Word :=
  flagsRule set
    ((v &&& ~~~(1#16 <<< f.pos)) ||| ((if b then 1#16 else 0#16) <<< f.pos))

/-! ## Arithmetic and logic (41_arithmetic_logic.md) -/

/-- How many of a byte's bits are 1. -/
def onesCount (b : Byte) : Nat :=
  (b.getLsbD 0).toNat + (b.getLsbD 1).toNat + (b.getLsbD 2).toNat + (b.getLsbD 3).toNat
    + (b.getLsbD 4).toNat + (b.getLsbD 5).toNat + (b.getLsbD 6).toNat + (b.getLsbD 7).toNat

/-- `parity(r)`: 1 iff the low byte has an even number of ones (R251). -/
def parity {w : Nat} (r : BitVec w) : Bool := onesCount (r.setWidth 8) % 2 == 0

/-- `szp(w, r)` (R250). -/
def szpFlags {w : Nat} (set : Word) (r : BitVec w) (v : Word) : Word :=
  putFlag set .pf (parity r) (putFlag set .zf (r == 0) (putFlag set .sf r.msb v))

/-- The result of `addflags` (R252). -/
def addResult {w : Nat} (a b : BitVec w) (c : Bool) : BitVec w :=
  BitVec.ofNat w (a.toNat + b.toNat + c.toNat)

/-- The flags of `addflags` (R252). -/
def addFlags {w : Nat} (set : Word) (a b : BitVec w) (c : Bool) (v : Word) : Word :=
  let r := addResult a b c
  let v := putFlag set .cf (decide (2 ^ w ≤ a.toNat + b.toNat + c.toNat)) v
  let v := putFlag set .af ((a ^^^ b ^^^ r).getLsbD 4) v
  let v := putFlag set .ofl (~~~(a ^^^ b) &&& (a ^^^ r)).msb v
  szpFlags set r v

/-- The result of `subflags` (R253). -/
def subResult {w : Nat} (a b : BitVec w) (c : Bool) : BitVec w :=
  BitVec.ofInt w ((a.toNat : Int) - b.toNat - c.toNat)

/-- The flags of `subflags` (R253). -/
def subFlags {w : Nat} (set : Word) (a b : BitVec w) (c : Bool) (v : Word) : Word :=
  let r := subResult a b c
  let v := putFlag set .cf (decide (a.toNat < b.toNat + c.toNat)) v
  let v := putFlag set .af ((a ^^^ b ^^^ r).getLsbD 4) v
  let v := putFlag set .ofl ((a ^^^ b) &&& (a ^^^ r)).msb v
  szpFlags set r v

/-- `logicflags(w, r)` (R254): AF is not written. -/
def logicFlags {w : Nat} (set : Word) (r : BitVec w) (v : Word) : Word :=
  szpFlags set r (putFlag set .ofl false (putFlag set .cf false v))

/-- The eight two-operand operations in the order of k (R255). -/
inductive AluOp | add | or | adc | sbb | and | sub | xor | cmp
deriving DecidableEq, Repr

/-- The value an operation writes to its destination; CMP writes none (R256 to R263). -/
def aluResult {w : Nat} (k : AluOp) (a b : BitVec w) (cf : Bool) : Option (BitVec w) :=
  match k with
  | .add => some (addResult a b false)
  | .or => some (a ||| b)
  | .adc => some (addResult a b cf)
  | .sbb => some (subResult a b cf)
  | .and => some (a &&& b)
  | .sub => some (subResult a b false)
  | .xor => some (a ^^^ b)
  | .cmp => none

/-- The FLAGS an operation leaves (R256 to R263). CF is read before any flag is written. -/
def aluFlags {w : Nat} (set : Word) (k : AluOp) (a b : BitVec w) (v : Word) : Word :=
  match k with
  | .add => addFlags set a b false v
  | .or => logicFlags set (a ||| b) v
  | .adc => addFlags set a b (getFlag .cf v) v
  | .sbb => subFlags set a b (getFlag .cf v) v
  | .and => logicFlags set (a &&& b) v
  | .sub => subFlags set a b false v
  | .xor => logicFlags set (a ^^^ b) v
  | .cmp => subFlags set a b false v

/-- INC's flags: those of adding 1, with CF kept (R265). -/
def incFlags {w : Nat} (set : Word) (a : BitVec w) (v : Word) : Word :=
  putFlag set .cf (getFlag .cf v) (addFlags set a 1 false v)

/-- DEC's flags: those of subtracting 1, with CF kept (R266). -/
def decFlags {w : Nat} (set : Word) (a : BitVec w) (v : Word) : Word :=
  putFlag set .cf (getFlag .cf v) (subFlags set a 1 false v)

/-! ## Shifts and rotates (42_shift_rotate.md) -/

/-- The seven operations (R300). -/
inductive ShiftOp | rol | ror | rcl | rcr | shl | shr | sar
deriving DecidableEq, Repr

/-- The bit `b` at position `i` of a w-bit value. -/
def bitAt (w : Nat) (b : Bool) (i : Nat) : BitVec w := BitVec.ofNat w b.toNat <<< i

/-- One one-bit step: the new value and the bit moved out (R302 to R308). -/
def shiftStep {w : Nat} (k : ShiftOp) (x : BitVec w) (cf : Bool) : BitVec w × Bool :=
  match k with
  | .rol => (x <<< 1 ||| bitAt w x.msb 0, x.msb)
  | .ror => (x >>> 1 ||| bitAt w (x.getLsbD 0) (w - 1), x.getLsbD 0)
  | .rcl => (x <<< 1 ||| bitAt w cf 0, x.msb)
  | .rcr => (x >>> 1 ||| bitAt w cf (w - 1), x.getLsbD 0)
  | .shl => (x <<< 1, x.msb)
  | .shr => (x >>> 1, x.getLsbD 0)
  | .sar => (x >>> 1 ||| bitAt w x.msb (w - 1), x.getLsbD 0)

/-- n successive steps from a value and CF (R301). -/
def shiftSteps {w : Nat} (k : ShiftOp) : Nat → BitVec w → Bool → BitVec w × Bool
  | 0, x, c => (x, c)
  | n + 1, x, c =>
    let p := shiftStep k x c
    shiftSteps k n p.1 p.2

/-- Whether an operation writes SF, ZF, PF and draws AF: the shifts do, the rotates do not
(R302 to R308). -/
def ShiftOp.isShift : ShiftOp → Bool
  | .rol | .ror | .rcl | .rcr => false
  | .shl | .shr | .sar => true

/-- OF after a count of 1, from the operand `x0`, the result `r` and the bit moved out
(R302 to R308). -/
def shiftOf1 {w : Nat} (k : ShiftOp) (x0 r : BitVec w) (c : Bool) : Bool :=
  match k with
  | .rol | .rcl | .shl => r.msb ^^ c
  | .ror | .rcr => r.msb ^^ r.getLsbD (w - 2)
  | .shr => x0.msb
  | .sar => false

/-- The FLAGS after a count n ≥ 1. OF after n ≥ 2 and AF after a shift are draws, number `d` of
this run (R309, log entry 7). -/
def shiftFlags {w : Nat} (set : Word) (k : ShiftOp) (n : Nat) (x0 r : BitVec w) (c : Bool)
    (d : Nat) (v : Word) : Word :=
  let v := putFlag set .cf c v
  let v := if k.isShift then szpFlags set r v else v
  let v := putFlag set .ofl (if n = 1 then shiftOf1 k x0 r c else Config.drawShiftOf d) v
  if k.isShift then putFlag set .af (Config.drawShiftAf d) v else v

/-- Whether a count n ≥ 1 takes a draw (R309). -/
def shiftDraws (k : ShiftOp) (n : Nat) : Bool := k.isShift || decide (2 ≤ n)

/-! ## Conditions (43_control_transfer.md R342) -/

/-- The condition of a condition code: bit 0 inverts the condition of the code's other bits
(R342). -/
def condition (c : BitVec 4) (v : Word) : Bool :=
  let base :=
    match c.toNat / 2 with
    | 0 => getFlag .ofl v
    | 1 => getFlag .cf v
    | 2 => getFlag .zf v
    | 3 => getFlag .cf v || getFlag .zf v
    | 4 => getFlag .sf v
    | 5 => getFlag .pf v
    | 6 => getFlag .sf v != getFlag .ofl v
    | _ => getFlag .zf v || (getFlag .sf v != getFlag .ofl v)
  base ^^ c.getLsbD 0

end Sys2Proof.Machine
end

