-- ==== Sys2Proof/Machine/Ops.lean ====
section
/-! DEFINITION. The named operations over registers, flags, stack and instruction pointer, taking an
interrupt and returning from one. -/

namespace Sys2Proof.Machine

/-! ## The register file (10_state.md R30 to R34) -/

/-- `r16[i]` (00_scope.md R14). -/
def Regs.r16 (g : Regs) : Reg16 → Word
  | .ax => g.ax | .cx => g.cx | .dx => g.dx | .bx => g.bx
  | .sp => g.sp | .bp => g.bp | .si => g.si | .di => g.di

/-- `r16[i] <- v`. -/
def Regs.setR16 (g : Regs) (r : Reg16) (v : Word) : Regs :=
  match r with
  | .ax => { g with ax := v } | .cx => { g with cx := v }
  | .dx => { g with dx := v } | .bx => { g with bx := v }
  | .sp => { g with sp := v } | .bp => { g with bp := v }
  | .si => { g with si := v } | .di => { g with di := v }

/-- `sreg[i]` (00_scope.md R14). -/
def Regs.sreg (g : Regs) : SReg → Word
  | .es => g.es | .cs => g.cs | .ss => g.ss | .ds => g.ds

/-- `sreg[i] <- v`. -/
def Regs.setSreg (g : Regs) (r : SReg) (v : Word) : Regs :=
  match r with
  | .es => { g with es := v } | .cs => { g with cs := v }
  | .ss => { g with ss := v } | .ds => { g with ds := v }

/-- A slot of the register file (10_state.md R30). -/
def Regs.slot (g : Regs) : Slot → Word
  | .gen r => g.r16 r
  | .seg r => g.sreg r
  | .ip => g.ip
  | .flags => g.flags

/-- The 4-bit code of a slot (10_state.md R30). -/
def Slot.code : Slot → BitVec 4
  | .gen r => r.code.setWidth 4
  | .seg r => 8#4 ||| r.code3.setWidth 4
  | .ip => 12#4
  | .flags => 13#4

/-- `r8[i]` (10_state.md R31). -/
def Regs.r8 (g : Regs) (r : Reg8) : Byte :=
  if r.isHigh then hiByte (g.r16 r.parent) else loByte (g.r16 r.parent)

/-- `r8[i] <- v`: the other half is unchanged (10_state.md R31). -/
def Regs.setR8 (g : Regs) (r : Reg8) (v : Byte) : Regs :=
  g.setR16 r.parent
    (if r.isHigh then wordOf (loByte (g.r16 r.parent)) v else wordOf v (hiByte (g.r16 r.parent)))

/-- `r16[i]` of the machine. -/
def State.r16 (s : State) (r : Reg16) : Word := s.regs.r16 r

/-- `r8[i]` of the machine. -/
def State.r8 (s : State) (r : Reg8) : Byte := s.regs.r8 r

/-- `sreg[i]` of the machine. -/
def State.sreg (s : State) (r : SReg) : Word := s.regs.sreg r

/-- `r16[i] <- v` on the machine. -/
def State.setR16 (s : State) (r : Reg16) (v : Word) : State :=
  { s with regs := s.regs.setR16 r v }

/-- `r8[i] <- v` on the machine. -/
def State.setR8 (s : State) (r : Reg8) (v : Byte) : State :=
  { s with regs := s.regs.setR8 r v }

/-- `sreg[i] <- v` on the machine. -/
def State.setSreg (s : State) (r : SReg) (v : Word) : State :=
  { s with regs := s.regs.setSreg r v }

/-- `IP <- v`. -/
def State.setIp (s : State) (v : Word) : State :=
  { s with regs := { s.regs with ip := v } }

/-! ## FLAGS (10_state.md R40) -/

/-- FLAGS. -/
def State.flags (s : State) : Word := s.regs.flags

/-- A flag. -/
def State.flag (s : State) (f : Flag) : Bool := getFlag f s.flags

/-- `FLAGS <- v`, through the write rule (10_state.md R40). -/
def State.setFlags (s : State) (v : Word) : State :=
  { s with regs := { s.regs with flags := flagsRule s.cfg.flagsAlwaysSet v } }

/-- `setFlag(F, b)` (10_state.md R40). -/
def State.setFlag (s : State) (f : Flag) (b : Bool) : State :=
  s.setFlags (putFlag s.cfg.flagsAlwaysSet f b s.flags)

/-! ## The end of an instruction (30_encoding.md R131) -/

/-- `next_ip` = IP + len, prefixes included (00_scope.md R16, 30_encoding.md R131). -/
def State.nextIp (s : State) (i : Instr) : Word :=
  s.regs.ip + s.prefixLen + BitVec.ofNat 16 i.len

/-- A non-relocating instruction's last act: `IP <- next_ip` (30_encoding.md R131). -/
def State.advance (s : State) (i : Instr) : State := s.setIp (s.nextIp i)

/-! ## The stack (40_data_transfer.md R210) -/

/-- `push(v)`: SP moves first, then the word is stored at SS:SP. -/
def State.push (s : State) (v : Word) : State :=
  let t := s.setR16 .sp (s.r16 .sp - 2#16)
  t.writeMem16 (t.sreg .ss) (t.r16 .sp) v

/-- `pop()`: the word at SS:SP, and the machine with SP moved. -/
def State.pop (s : State) : Word × State :=
  (s.readMem16 (s.sreg .ss) (s.r16 .sp), s.setR16 .sp (s.r16 .sp + 2#16))

/-! ## Interrupts (60_exceptions.md R410, R413) -/

/-- `interrupt(n, ret)`: push FLAGS, clear IF and TF, push CS, push the return offset, then load
IP and CS from the vector, read in segment 0 after the pushes (R410). -/
def State.interrupt (s : State) (n : Byte) (ret : Word) : State :=
  let s := s.push s.flags
  let s := (s.setFlag .ifl false).setFlag .tf false
  let s := s.push (s.sreg .cs)
  let s := s.push ret
  let vector := zext16 n * 4#16
  let off := s.readMem16 0#16 vector
  let seg := s.readMem16 0#16 (vector + 2#16)
  (s.setIp off).setSreg .cs seg

/-- The return from an interrupt: pop IP, CS and FLAGS, the last through the write rule
(43_control_transfer.md R368, 60_exceptions.md R413). -/
def State.interruptReturn (s : State) : State :=
  let (ip, s) := s.pop
  let (cs, s) := s.pop
  let (fl, s) := s.pop
  ((s.setIp ip).setSreg .cs cs).setFlags fl

/-! ## The emulation fault (60_exceptions.md R400) -/

/-- Append an entry to the diagnostic log (10_state.md R41). -/
def State.appendLog (s : State) (e : LogEntry) : State := { s with log := s.log ++ [e] }

/-- Taking an emulation fault: an entry with the CS:IP of the instruction's first byte, and the
fault status; nothing else changes (R400). -/
def State.emulationFault (s : State) (f : EmulationFault) : State :=
  { s.appendLog (.fault f s.regs.cs s.regs.ip) with faultStatus := true }

end Sys2Proof.Machine
end

