-- ==== Sys2Proof/Machine/Operands.lean ====
section
/-! DEFINITION. Every operand form: effective addresses and segments, E operands located once at
decode, and their reads and writes (30_encoding.md R150 to R155, 20_memory.md R82). -/

namespace Sys2Proof.Machine

/-- The sum of base and index (30_encoding.md R150). -/
def State.baseIndex (s : State) : AddrBase → Word
  | .bxsi => s.r16 .bx + s.r16 .si
  | .bxdi => s.r16 .bx + s.r16 .di
  | .bpsi => s.r16 .bp + s.r16 .si
  | .bpdi => s.r16 .bp + s.r16 .di
  | .si => s.r16 .si
  | .di => s.r16 .di
  | .bp => s.r16 .bp
  | .bx => s.r16 .bx

/-- A displacement as a word (30_encoding.md R151). -/
def dispValue : Disp → Word
  | .none => 0
  | .d8 b => sext16 b
  | .d16 w => w

/-- The effective address (30_encoding.md R150). -/
def State.effAddr (s : State) : MemOp → Word
  | .direct off => off
  | .based b d => s.baseIndex b + dispValue d

/-- The segment of a memory operand: the override, or DS, or SS for BP-based modes when
`BP_USES_SS` (20_memory.md R82, 30_encoding.md R140). -/
def State.memSegment (s : State) (m : MemOp) : Word :=
  match s.segOvr with
  | some r => s.sreg r
  | none => if s.cfg.bpUsesSs && m.usesBp then s.sreg .ss else s.sreg .ds

/-- The segment of a direct-offset operand, A0 to A3 (20_memory.md R82, 40_data_transfer.md R203). -/
def State.offsetSegment (s : State) : Word := s.memSegment (.direct 0)

/-- Where an Eb operand is, fixed at decode (30_encoding.md R155). -/
inductive Loc8
  | reg (r : Reg8)
  | mem (seg off : Word)
deriving DecidableEq, Repr

/-- Where an Ew operand is, fixed at decode (30_encoding.md R155). -/
inductive Loc16
  | reg (r : Reg16)
  | mem (seg off : Word)
deriving DecidableEq, Repr

/-- Locate an Eb operand. -/
def State.locate8 (s : State) : Ea8 → Loc8
  | .reg r => .reg r
  | .mem m => .mem (s.memSegment m) (s.effAddr m)

/-- Locate an Ew operand. -/
def State.locate16 (s : State) : Ea16 → Loc16
  | .reg r => .reg r
  | .mem m => .mem (s.memSegment m) (s.effAddr m)

/-- `readE(8)` (30_encoding.md R155). -/
def State.get8 (s : State) : Loc8 → Byte
  | .reg r => s.r8 r
  | .mem seg off => s.readMem8 seg off

/-- `readE(16)` (30_encoding.md R155). -/
def State.get16 (s : State) : Loc16 → Word
  | .reg r => s.r16 r
  | .mem seg off => s.readMem16 seg off

/-- `writeE(8, v)` (30_encoding.md R155). -/
def State.put8 (s : State) (l : Loc8) (v : Byte) : State :=
  match l with
  | .reg r => s.setR8 r v
  | .mem seg off => s.writeMem8 seg off v

/-- `writeE(16, v)` (30_encoding.md R155). -/
def State.put16 (s : State) (l : Loc16) (v : Word) : State :=
  match l with
  | .reg r => s.setR16 r v
  | .mem seg off => s.writeMem16 seg off v

end Sys2Proof.Machine
end

