-- ==== Sys2Proof/Machine/ArithLogic.lean ====
section
/-! DEFINITION. The two-operand ALU operations in their nine forms, TEST, INC, DEC, NEG and NOT
(41_arithmetic_logic.md). Every meaning ends in `advance`: none relocates. -/

namespace Sys2Proof.Machine

/-! ## Shared operations -/

/-- An 8-bit ALU operation on a and b: the result goes to `dst` unless the operation writes none,
and the flags are written (R255 to R263). -/
def State.alu8 (s : State) (k : AluOp) (dst : Loc8) (a b : Byte) : State :=
  let t :=
    match aluResult k a b (s.flag .cf) with
    | some r => s.put8 dst r
    | none => s
  t.setFlags (aluFlags s.cfg.flagsAlwaysSet k a b s.flags)

/-- A 16-bit ALU operation (R255 to R263). -/
def State.alu16 (s : State) (k : AluOp) (dst : Loc16) (a b : Word) : State :=
  let t :=
    match aluResult k a b (s.flag .cf) with
    | some r => s.put16 dst r
    | none => s
  t.setFlags (aluFlags s.cfg.flagsAlwaysSet k a b s.flags)

/-- Form Eb,Gb (R255, 8k+0). -/
def aluEbGb (k : AluOp) (i : Instr) (e : Ea8) (g : Reg8) (s : State) : Result :=
  let l := s.locate8 e
  .next ((s.alu8 k l (s.get8 l) (s.r8 g)).advance i)

/-- Form Ew,Gw (R255, 8k+1). -/
def aluEwGw (k : AluOp) (i : Instr) (e : Ea16) (g : Reg16) (s : State) : Result :=
  let l := s.locate16 e
  .next ((s.alu16 k l (s.get16 l) (s.r16 g)).advance i)

/-- Form Gb,Eb (R255, 8k+2). -/
def aluGbEb (k : AluOp) (i : Instr) (g : Reg8) (e : Ea8) (s : State) : Result :=
  .next ((s.alu8 k (.reg g) (s.r8 g) (s.get8 (s.locate8 e))).advance i)

/-- Form Gw,Ew (R255, 8k+3). -/
def aluGwEw (k : AluOp) (i : Instr) (g : Reg16) (e : Ea16) (s : State) : Result :=
  .next ((s.alu16 k (.reg g) (s.r16 g) (s.get16 (s.locate16 e))).advance i)

/-- Form AL,Ib (R255, 8k+4). -/
def aluAlIb (k : AluOp) (i : Instr) (imm : Byte) (s : State) : Result :=
  .next ((s.alu8 k (.reg .al) (s.r8 .al) imm).advance i)

/-- Form AX,Iw (R255, 8k+5). -/
def aluAxIw (k : AluOp) (i : Instr) (imm : Word) (s : State) : Result :=
  .next ((s.alu16 k (.reg .ax) (s.r16 .ax) imm).advance i)

/-- Form Eb,Ib (R255, 80 /k). -/
def aluEbIb (k : AluOp) (i : Instr) (e : Ea8) (imm : Byte) (s : State) : Result :=
  let l := s.locate8 e
  .next ((s.alu8 k l (s.get8 l) imm).advance i)

/-- Forms Ew,Iw and Ew,Ibs (R255, 81 /k and 83 /k), the immediate as a word. -/
def aluEwIw (k : AluOp) (i : Instr) (e : Ea16) (imm : Word) (s : State) : Result :=
  let l := s.locate16 e
  .next ((s.alu16 k l (s.get16 l) imm).advance i)

/-- TEST of two values: only the flags (R264). -/
def State.test {w : Nat} (s : State) (a b : BitVec w) : State :=
  s.setFlags (logicFlags s.cfg.flagsAlwaysSet (a &&& b) s.flags)

/-- INC of a byte operand (R265). -/
def State.inc8 (s : State) (l : Loc8) : State :=
  (s.put8 l (addResult (s.get8 l) 1 false)).setFlags
    (incFlags s.cfg.flagsAlwaysSet (s.get8 l) s.flags)

/-- INC of a word operand (R265). -/
def State.inc16 (s : State) (l : Loc16) : State :=
  (s.put16 l (addResult (s.get16 l) 1 false)).setFlags
    (incFlags s.cfg.flagsAlwaysSet (s.get16 l) s.flags)

/-- DEC of a byte operand (R266). -/
def State.dec8 (s : State) (l : Loc8) : State :=
  (s.put8 l (subResult (s.get8 l) 1 false)).setFlags
    (decFlags s.cfg.flagsAlwaysSet (s.get8 l) s.flags)

/-- DEC of a word operand (R266). -/
def State.dec16 (s : State) (l : Loc16) : State :=
  (s.put16 l (subResult (s.get16 l) 1 false)).setFlags
    (decFlags s.cfg.flagsAlwaysSet (s.get16 l) s.flags)

/-- NEG of a byte operand: SUB from 0 (R267). -/
def State.neg8 (s : State) (l : Loc8) : State :=
  (s.put8 l (subResult 0 (s.get8 l) false)).setFlags
    (subFlags s.cfg.flagsAlwaysSet 0 (s.get8 l) false s.flags)

/-- NEG of a word operand (R267). -/
def State.neg16 (s : State) (l : Loc16) : State :=
  (s.put16 l (subResult 0 (s.get16 l) false)).setFlags
    (subFlags s.cfg.flagsAlwaysSet 0 (s.get16 l) false s.flags)

/-! ## The instructions -/

/-- ADD Eb,Gb (00), R256. -/
def execAddEbGb (e : Ea8) (g : Reg8) (s : State) : Result := aluEbGb .add (.addEbGb e g) e g s

/-- ADD Ew,Gw (01), R256. -/
def execAddEwGw (e : Ea16) (g : Reg16) (s : State) : Result := aluEwGw .add (.addEwGw e g) e g s

/-- ADD Gb,Eb (02), R256. -/
def execAddGbEb (g : Reg8) (e : Ea8) (s : State) : Result := aluGbEb .add (.addGbEb g e) g e s

/-- ADD Gw,Ew (03), R256. -/
def execAddGwEw (g : Reg16) (e : Ea16) (s : State) : Result := aluGwEw .add (.addGwEw g e) g e s

/-- ADD AL,Ib (04), R256. -/
def execAddAlIb (imm : Byte) (s : State) : Result := aluAlIb .add (.addAlIb imm) imm s

/-- ADD AX,Iw (05), R256. -/
def execAddAxIw (imm : Word) (s : State) : Result := aluAxIw .add (.addAxIw imm) imm s

/-- OR Eb,Gb (08), R257. -/
def execOrEbGb (e : Ea8) (g : Reg8) (s : State) : Result := aluEbGb .or (.orEbGb e g) e g s

/-- OR Ew,Gw (09), R257. -/
def execOrEwGw (e : Ea16) (g : Reg16) (s : State) : Result := aluEwGw .or (.orEwGw e g) e g s

/-- OR Gb,Eb (0A), R257. -/
def execOrGbEb (g : Reg8) (e : Ea8) (s : State) : Result := aluGbEb .or (.orGbEb g e) g e s

/-- OR Gw,Ew (0B), R257. -/
def execOrGwEw (g : Reg16) (e : Ea16) (s : State) : Result := aluGwEw .or (.orGwEw g e) g e s

/-- OR AL,Ib (0C), R257. -/
def execOrAlIb (imm : Byte) (s : State) : Result := aluAlIb .or (.orAlIb imm) imm s

/-- OR AX,Iw (0D), R257. -/
def execOrAxIw (imm : Word) (s : State) : Result := aluAxIw .or (.orAxIw imm) imm s

/-- ADC Eb,Gb (10), R258. -/
def execAdcEbGb (e : Ea8) (g : Reg8) (s : State) : Result := aluEbGb .adc (.adcEbGb e g) e g s

/-- ADC Ew,Gw (11), R258. -/
def execAdcEwGw (e : Ea16) (g : Reg16) (s : State) : Result := aluEwGw .adc (.adcEwGw e g) e g s

/-- ADC Gb,Eb (12), R258. -/
def execAdcGbEb (g : Reg8) (e : Ea8) (s : State) : Result := aluGbEb .adc (.adcGbEb g e) g e s

/-- ADC Gw,Ew (13), R258. -/
def execAdcGwEw (g : Reg16) (e : Ea16) (s : State) : Result := aluGwEw .adc (.adcGwEw g e) g e s

/-- ADC AL,Ib (14), R258. -/
def execAdcAlIb (imm : Byte) (s : State) : Result := aluAlIb .adc (.adcAlIb imm) imm s

/-- ADC AX,Iw (15), R258. -/
def execAdcAxIw (imm : Word) (s : State) : Result := aluAxIw .adc (.adcAxIw imm) imm s

/-- SBB Eb,Gb (18), R259. -/
def execSbbEbGb (e : Ea8) (g : Reg8) (s : State) : Result := aluEbGb .sbb (.sbbEbGb e g) e g s

/-- SBB Ew,Gw (19), R259. -/
def execSbbEwGw (e : Ea16) (g : Reg16) (s : State) : Result := aluEwGw .sbb (.sbbEwGw e g) e g s

/-- SBB Gb,Eb (1A), R259. -/
def execSbbGbEb (g : Reg8) (e : Ea8) (s : State) : Result := aluGbEb .sbb (.sbbGbEb g e) g e s

/-- SBB Gw,Ew (1B), R259. -/
def execSbbGwEw (g : Reg16) (e : Ea16) (s : State) : Result := aluGwEw .sbb (.sbbGwEw g e) g e s

/-- SBB AL,Ib (1C), R259. -/
def execSbbAlIb (imm : Byte) (s : State) : Result := aluAlIb .sbb (.sbbAlIb imm) imm s

/-- SBB AX,Iw (1D), R259. -/
def execSbbAxIw (imm : Word) (s : State) : Result := aluAxIw .sbb (.sbbAxIw imm) imm s

/-- AND Eb,Gb (20), R260. -/
def execAndEbGb (e : Ea8) (g : Reg8) (s : State) : Result := aluEbGb .and (.andEbGb e g) e g s

/-- AND Ew,Gw (21), R260. -/
def execAndEwGw (e : Ea16) (g : Reg16) (s : State) : Result := aluEwGw .and (.andEwGw e g) e g s

/-- AND Gb,Eb (22), R260. -/
def execAndGbEb (g : Reg8) (e : Ea8) (s : State) : Result := aluGbEb .and (.andGbEb g e) g e s

/-- AND Gw,Ew (23), R260. -/
def execAndGwEw (g : Reg16) (e : Ea16) (s : State) : Result := aluGwEw .and (.andGwEw g e) g e s

/-- AND AL,Ib (24), R260. -/
def execAndAlIb (imm : Byte) (s : State) : Result := aluAlIb .and (.andAlIb imm) imm s

/-- AND AX,Iw (25), R260. -/
def execAndAxIw (imm : Word) (s : State) : Result := aluAxIw .and (.andAxIw imm) imm s

/-- SUB Eb,Gb (28), R261. -/
def execSubEbGb (e : Ea8) (g : Reg8) (s : State) : Result := aluEbGb .sub (.subEbGb e g) e g s

/-- SUB Ew,Gw (29), R261. -/
def execSubEwGw (e : Ea16) (g : Reg16) (s : State) : Result := aluEwGw .sub (.subEwGw e g) e g s

/-- SUB Gb,Eb (2A), R261. -/
def execSubGbEb (g : Reg8) (e : Ea8) (s : State) : Result := aluGbEb .sub (.subGbEb g e) g e s

/-- SUB Gw,Ew (2B), R261. -/
def execSubGwEw (g : Reg16) (e : Ea16) (s : State) : Result := aluGwEw .sub (.subGwEw g e) g e s

/-- SUB AL,Ib (2C), R261. -/
def execSubAlIb (imm : Byte) (s : State) : Result := aluAlIb .sub (.subAlIb imm) imm s

/-- SUB AX,Iw (2D), R261. -/
def execSubAxIw (imm : Word) (s : State) : Result := aluAxIw .sub (.subAxIw imm) imm s

/-- XOR Eb,Gb (30), R262. -/
def execXorEbGb (e : Ea8) (g : Reg8) (s : State) : Result := aluEbGb .xor (.xorEbGb e g) e g s

/-- XOR Ew,Gw (31), R262. -/
def execXorEwGw (e : Ea16) (g : Reg16) (s : State) : Result := aluEwGw .xor (.xorEwGw e g) e g s

/-- XOR Gb,Eb (32), R262. -/
def execXorGbEb (g : Reg8) (e : Ea8) (s : State) : Result := aluGbEb .xor (.xorGbEb g e) g e s

/-- XOR Gw,Ew (33), R262. -/
def execXorGwEw (g : Reg16) (e : Ea16) (s : State) : Result := aluGwEw .xor (.xorGwEw g e) g e s

/-- XOR AL,Ib (34), R262. -/
def execXorAlIb (imm : Byte) (s : State) : Result := aluAlIb .xor (.xorAlIb imm) imm s

/-- XOR AX,Iw (35), R262. -/
def execXorAxIw (imm : Word) (s : State) : Result := aluAxIw .xor (.xorAxIw imm) imm s

/-- CMP Eb,Gb (38), R263. -/
def execCmpEbGb (e : Ea8) (g : Reg8) (s : State) : Result := aluEbGb .cmp (.cmpEbGb e g) e g s

/-- CMP Ew,Gw (39), R263. -/
def execCmpEwGw (e : Ea16) (g : Reg16) (s : State) : Result := aluEwGw .cmp (.cmpEwGw e g) e g s

/-- CMP Gb,Eb (3A), R263. -/
def execCmpGbEb (g : Reg8) (e : Ea8) (s : State) : Result := aluGbEb .cmp (.cmpGbEb g e) g e s

/-- CMP Gw,Ew (3B), R263. -/
def execCmpGwEw (g : Reg16) (e : Ea16) (s : State) : Result := aluGwEw .cmp (.cmpGwEw g e) g e s

/-- CMP AL,Ib (3C), R263. -/
def execCmpAlIb (imm : Byte) (s : State) : Result := aluAlIb .cmp (.cmpAlIb imm) imm s

/-- CMP AX,Iw (3D), R263. -/
def execCmpAxIw (imm : Word) (s : State) : Result := aluAxIw .cmp (.cmpAxIw imm) imm s

/-- ADD Eb,Ib (80 /0), R256. -/
def execAddEbIb (e : Ea8) (imm : Byte) (s : State) : Result :=
  aluEbIb .add (.addEbIb e imm) e imm s

/-- ADD Ew,Iw (81 /0), R256. -/
def execAddEwIw (e : Ea16) (imm : Word) (s : State) : Result :=
  aluEwIw .add (.addEwIw e imm) e imm s

/-- ADD Ew,Ibs (83 /0), R256. -/
def execAddEwIbs (e : Ea16) (imm : Byte) (s : State) : Result :=
  aluEwIw .add (.addEwIbs e imm) e (sext16 imm) s

/-- OR Eb,Ib (80 /1), R257. -/
def execOrEbIb (e : Ea8) (imm : Byte) (s : State) : Result := aluEbIb .or (.orEbIb e imm) e imm s

/-- OR Ew,Iw (81 /1), R257. -/
def execOrEwIw (e : Ea16) (imm : Word) (s : State) : Result := aluEwIw .or (.orEwIw e imm) e imm s

/-- OR Ew,Ibs (83 /1), R257. -/
def execOrEwIbs (e : Ea16) (imm : Byte) (s : State) : Result :=
  aluEwIw .or (.orEwIbs e imm) e (sext16 imm) s

/-- ADC Eb,Ib (80 /2), R258. -/
def execAdcEbIb (e : Ea8) (imm : Byte) (s : State) : Result :=
  aluEbIb .adc (.adcEbIb e imm) e imm s

/-- ADC Ew,Iw (81 /2), R258. -/
def execAdcEwIw (e : Ea16) (imm : Word) (s : State) : Result :=
  aluEwIw .adc (.adcEwIw e imm) e imm s

/-- ADC Ew,Ibs (83 /2), R258. -/
def execAdcEwIbs (e : Ea16) (imm : Byte) (s : State) : Result :=
  aluEwIw .adc (.adcEwIbs e imm) e (sext16 imm) s

/-- SBB Eb,Ib (80 /3), R259. -/
def execSbbEbIb (e : Ea8) (imm : Byte) (s : State) : Result :=
  aluEbIb .sbb (.sbbEbIb e imm) e imm s

/-- SBB Ew,Iw (81 /3), R259. -/
def execSbbEwIw (e : Ea16) (imm : Word) (s : State) : Result :=
  aluEwIw .sbb (.sbbEwIw e imm) e imm s

/-- SBB Ew,Ibs (83 /3), R259. -/
def execSbbEwIbs (e : Ea16) (imm : Byte) (s : State) : Result :=
  aluEwIw .sbb (.sbbEwIbs e imm) e (sext16 imm) s

/-- AND Eb,Ib (80 /4), R260. -/
def execAndEbIb (e : Ea8) (imm : Byte) (s : State) : Result :=
  aluEbIb .and (.andEbIb e imm) e imm s

/-- AND Ew,Iw (81 /4), R260. -/
def execAndEwIw (e : Ea16) (imm : Word) (s : State) : Result :=
  aluEwIw .and (.andEwIw e imm) e imm s

/-- AND Ew,Ibs (83 /4), R260. -/
def execAndEwIbs (e : Ea16) (imm : Byte) (s : State) : Result :=
  aluEwIw .and (.andEwIbs e imm) e (sext16 imm) s

/-- SUB Eb,Ib (80 /5), R261. -/
def execSubEbIb (e : Ea8) (imm : Byte) (s : State) : Result :=
  aluEbIb .sub (.subEbIb e imm) e imm s

/-- SUB Ew,Iw (81 /5), R261. -/
def execSubEwIw (e : Ea16) (imm : Word) (s : State) : Result :=
  aluEwIw .sub (.subEwIw e imm) e imm s

/-- SUB Ew,Ibs (83 /5), R261. -/
def execSubEwIbs (e : Ea16) (imm : Byte) (s : State) : Result :=
  aluEwIw .sub (.subEwIbs e imm) e (sext16 imm) s

/-- XOR Eb,Ib (80 /6), R262. -/
def execXorEbIb (e : Ea8) (imm : Byte) (s : State) : Result :=
  aluEbIb .xor (.xorEbIb e imm) e imm s

/-- XOR Ew,Iw (81 /6), R262. -/
def execXorEwIw (e : Ea16) (imm : Word) (s : State) : Result :=
  aluEwIw .xor (.xorEwIw e imm) e imm s

/-- XOR Ew,Ibs (83 /6), R262. -/
def execXorEwIbs (e : Ea16) (imm : Byte) (s : State) : Result :=
  aluEwIw .xor (.xorEwIbs e imm) e (sext16 imm) s

/-- CMP Eb,Ib (80 /7), R263. -/
def execCmpEbIb (e : Ea8) (imm : Byte) (s : State) : Result :=
  aluEbIb .cmp (.cmpEbIb e imm) e imm s

/-- CMP Ew,Iw (81 /7), R263. -/
def execCmpEwIw (e : Ea16) (imm : Word) (s : State) : Result :=
  aluEwIw .cmp (.cmpEwIw e imm) e imm s

/-- CMP Ew,Ibs (83 /7), R263. -/
def execCmpEwIbs (e : Ea16) (imm : Byte) (s : State) : Result :=
  aluEwIw .cmp (.cmpEwIbs e imm) e (sext16 imm) s

/-- INC AX (40), R265. -/
def execIncAx (s : State) : Result := .next ((s.inc16 (.reg .ax)).advance .incAx)

/-- INC CX (41), R265. -/
def execIncCx (s : State) : Result := .next ((s.inc16 (.reg .cx)).advance .incCx)

/-- INC DX (42), R265. -/
def execIncDx (s : State) : Result := .next ((s.inc16 (.reg .dx)).advance .incDx)

/-- INC BX (43), R265. -/
def execIncBx (s : State) : Result := .next ((s.inc16 (.reg .bx)).advance .incBx)

/-- INC SP (44), R265. -/
def execIncSp (s : State) : Result := .next ((s.inc16 (.reg .sp)).advance .incSp)

/-- INC BP (45), R265. -/
def execIncBp (s : State) : Result := .next ((s.inc16 (.reg .bp)).advance .incBp)

/-- INC SI (46), R265. -/
def execIncSi (s : State) : Result := .next ((s.inc16 (.reg .si)).advance .incSi)

/-- INC DI (47), R265. -/
def execIncDi (s : State) : Result := .next ((s.inc16 (.reg .di)).advance .incDi)

/-- DEC AX (48), R266. -/
def execDecAx (s : State) : Result := .next ((s.dec16 (.reg .ax)).advance .decAx)

/-- DEC CX (49), R266. -/
def execDecCx (s : State) : Result := .next ((s.dec16 (.reg .cx)).advance .decCx)

/-- DEC DX (4A), R266. -/
def execDecDx (s : State) : Result := .next ((s.dec16 (.reg .dx)).advance .decDx)

/-- DEC BX (4B), R266. -/
def execDecBx (s : State) : Result := .next ((s.dec16 (.reg .bx)).advance .decBx)

/-- DEC SP (4C), R266. -/
def execDecSp (s : State) : Result := .next ((s.dec16 (.reg .sp)).advance .decSp)

/-- DEC BP (4D), R266. -/
def execDecBp (s : State) : Result := .next ((s.dec16 (.reg .bp)).advance .decBp)

/-- DEC SI (4E), R266. -/
def execDecSi (s : State) : Result := .next ((s.dec16 (.reg .si)).advance .decSi)

/-- DEC DI (4F), R266. -/
def execDecDi (s : State) : Result := .next ((s.dec16 (.reg .di)).advance .decDi)

/-- TEST Eb,Gb (84), R264. -/
def execTestEbGb (e : Ea8) (g : Reg8) (s : State) : Result :=
  .next ((s.test (s.get8 (s.locate8 e)) (s.r8 g)).advance (.testEbGb e g))

/-- TEST Ew,Gw (85), R264. -/
def execTestEwGw (e : Ea16) (g : Reg16) (s : State) : Result :=
  .next ((s.test (s.get16 (s.locate16 e)) (s.r16 g)).advance (.testEwGw e g))

/-- TEST AL,Ib (A8), R264. -/
def execTestAlIb (imm : Byte) (s : State) : Result :=
  .next ((s.test (s.r8 .al) imm).advance (.testAlIb imm))

/-- TEST AX,Iw (A9), R264. -/
def execTestAxIw (imm : Word) (s : State) : Result :=
  .next ((s.test (s.r16 .ax) imm).advance (.testAxIw imm))

/-- TEST Eb,Ib (F6 /0), R264. -/
def execTestEbIb (e : Ea8) (imm : Byte) (s : State) : Result :=
  .next ((s.test (s.get8 (s.locate8 e)) imm).advance (.testEbIb e imm))

/-- NOT Eb (F6 /2), R268. -/
def execNotEb (e : Ea8) (s : State) : Result :=
  .next ((s.put8 (s.locate8 e) (~~~s.get8 (s.locate8 e))).advance (.notEb e))

/-- NEG Eb (F6 /3), R267. -/
def execNegEb (e : Ea8) (s : State) : Result := .next ((s.neg8 (s.locate8 e)).advance (.negEb e))

/-- TEST Ew,Iw (F7 /0), R264. -/
def execTestEwIw (e : Ea16) (imm : Word) (s : State) : Result :=
  .next ((s.test (s.get16 (s.locate16 e)) imm).advance (.testEwIw e imm))

/-- NOT Ew (F7 /2), R268. -/
def execNotEw (e : Ea16) (s : State) : Result :=
  .next ((s.put16 (s.locate16 e) (~~~s.get16 (s.locate16 e))).advance (.notEw e))

/-- NEG Ew (F7 /3), R267. -/
def execNegEw (e : Ea16) (s : State) : Result :=
  .next ((s.neg16 (s.locate16 e)).advance (.negEw e))

/-- INC Eb (FE /0), R265. -/
def execIncEb (e : Ea8) (s : State) : Result := .next ((s.inc8 (s.locate8 e)).advance (.incEb e))

/-- DEC Eb (FE /1), R266. -/
def execDecEb (e : Ea8) (s : State) : Result := .next ((s.dec8 (s.locate8 e)).advance (.decEb e))

/-- INC Ew (FF /0), R265. -/
def execIncEw (e : Ea16) (s : State) : Result :=
  .next ((s.inc16 (s.locate16 e)).advance (.incEw e))

/-- DEC Ew (FF /1), R266. -/
def execDecEw (e : Ea16) (s : State) : Result :=
  .next ((s.dec16 (s.locate16 e)).advance (.decEw e))

end Sys2Proof.Machine
end

