-- ==== Sys2Proof/Machine/ControlTransfer.lean ====
section
/-! DEFINITION. Jumps, calls, returns, loops, software interrupts, IRET and HLT
(43_control_transfer.md). A meaning that relocates sets IP itself and does not `advance` (R330). -/

namespace Sys2Proof.Machine

/-! ## Shared operations -/

/-- A relative target: `next_ip +16 disp` (30_encoding.md R171). -/
def State.relTarget (s : State) (i : Instr) (disp : Word) : Word := s.nextIp i + disp

/-- A jump to a relative target if `taken`, else to the next instruction (R342, 30_encoding.md
R133). -/
def State.jumpIf (s : State) (taken : Bool) (i : Instr) (d : Byte) : State :=
  if taken then s.setIp (s.relTarget i (sext16 d)) else s.advance i

/-- A conditional jump with condition code c (R342). -/
def jcc (c : BitVec 4) (i : Instr) (d : Byte) (s : State) : Result :=
  .next (s.jumpIf (condition c s.flags) i d)

/-- The LOOP family's decrement of CX, which writes no flag (R360 to R362). -/
def State.countCx (s : State) : State := s.setR16 .cx (s.r16 .cx - 1#16)

/-- CX after the decrement is not zero (R360 to R362). -/
def State.cxLeft (s : State) : Bool := s.r16 .cx != 0#16

/-! ## The instructions -/

/-- JO Jb (70), R343. -/
def execJoJb (d : Byte) (s : State) : Result := jcc 0 (.joJb d) d s

/-- JNO Jb (71), R344. -/
def execJnoJb (d : Byte) (s : State) : Result := jcc 1 (.jnoJb d) d s

/-- JB Jb (72), R345. -/
def execJbJb (d : Byte) (s : State) : Result := jcc 2 (.jbJb d) d s

/-- JNB Jb (73), R346. -/
def execJnbJb (d : Byte) (s : State) : Result := jcc 3 (.jnbJb d) d s

/-- JZ Jb (74), R347. -/
def execJzJb (d : Byte) (s : State) : Result := jcc 4 (.jzJb d) d s

/-- JNZ Jb (75), R348. -/
def execJnzJb (d : Byte) (s : State) : Result := jcc 5 (.jnzJb d) d s

/-- JBE Jb (76), R349. -/
def execJbeJb (d : Byte) (s : State) : Result := jcc 6 (.jbeJb d) d s

/-- JA Jb (77), R350. -/
def execJaJb (d : Byte) (s : State) : Result := jcc 7 (.jaJb d) d s

/-- JS Jb (78), R351. -/
def execJsJb (d : Byte) (s : State) : Result := jcc 8 (.jsJb d) d s

/-- JNS Jb (79), R352. -/
def execJnsJb (d : Byte) (s : State) : Result := jcc 9 (.jnsJb d) d s

/-- JP Jb (7A), R353. -/
def execJpJb (d : Byte) (s : State) : Result := jcc 10 (.jpJb d) d s

/-- JNP Jb (7B), R354. -/
def execJnpJb (d : Byte) (s : State) : Result := jcc 11 (.jnpJb d) d s

/-- JL Jb (7C), R355. -/
def execJlJb (d : Byte) (s : State) : Result := jcc 12 (.jlJb d) d s

/-- JGE Jb (7D), R356. -/
def execJgeJb (d : Byte) (s : State) : Result := jcc 13 (.jgeJb d) d s

/-- JLE Jb (7E), R357. -/
def execJleJb (d : Byte) (s : State) : Result := jcc 14 (.jleJb d) d s

/-- JG Jb (7F), R358. -/
def execJgJb (d : Byte) (s : State) : Result := jcc 15 (.jgJb d) d s

/-- CALL Ap (9A), R336. -/
def execCallAp (off seg : Word) (s : State) : Result :=
  .next ((((s.push (s.sreg .cs)).push (s.nextIp (.callAp off seg))).setIp off).setSreg .cs seg)

/-- RET Iw (C2), R339. -/
def execRetIw (imm : Word) (s : State) : Result :=
  let (ip, t) := s.pop
  let u := t.setIp ip
  .next (u.setR16 .sp (u.r16 .sp + imm))

/-- RET (C3), R338. -/
def execRet (s : State) : Result :=
  let (ip, t) := s.pop
  .next (t.setIp ip)

/-- RETF Iw (CA), R341. -/
def execRetfIw (imm : Word) (s : State) : Result :=
  let (ip, t) := s.pop
  let (cs, u) := t.pop
  let v := (u.setIp ip).setSreg .cs cs
  .next (v.setR16 .sp (v.r16 .sp + imm))

/-- RETF (CB), R340. -/
def execRetf (s : State) : Result :=
  let (ip, t) := s.pop
  let (cs, u) := t.pop
  .next ((u.setIp ip).setSreg .cs cs)

/-- INT3 (CC), R366. -/
def execInt3 (s : State) : Result := .next (s.interrupt 3 (s.nextIp .int3))

/-- INT Ib (CD), R365. -/
def execIntIb (n : Byte) (s : State) : Result := .next (s.interrupt n (s.nextIp (.intIb n)))

/-- INTO (CE), R367. -/
def execInto (s : State) : Result :=
  .next (if s.flag .ofl then s.interrupt 4 (s.nextIp .into) else s.advance .into)

/-- IRET (CF), R368. -/
def execIret (s : State) : Result := .next s.interruptReturn

/-- LOOPNZ Jb (E0), R360. -/
def execLoopnzJb (d : Byte) (s : State) : Result :=
  let t := s.countCx
  .next (t.jumpIf (t.cxLeft && !t.flag .zf) (.loopnzJb d) d)

/-- LOOPZ Jb (E1), R361. -/
def execLoopzJb (d : Byte) (s : State) : Result :=
  let t := s.countCx
  .next (t.jumpIf (t.cxLeft && t.flag .zf) (.loopzJb d) d)

/-- LOOP Jb (E2), R362. -/
def execLoopJb (d : Byte) (s : State) : Result :=
  let t := s.countCx
  .next (t.jumpIf t.cxLeft (.loopJb d) d)

/-- JCXZ Jb (E3), R363. -/
def execJcxzJb (d : Byte) (s : State) : Result :=
  .next (s.jumpIf (s.r16 .cx == 0#16) (.jcxzJb d) d)

/-- CALL Jw (E8), R335. -/
def execCallJw (d : Word) (s : State) : Result :=
  .next ((s.push (s.nextIp (.callJw d))).setIp (s.relTarget (.callJw d) d))

/-- JMP Jw (E9), R332. -/
def execJmpJw (d : Word) (s : State) : Result := .next (s.setIp (s.relTarget (.jmpJw d) d))

/-- JMP Ap (EA), R333. -/
def execJmpAp (off seg : Word) (s : State) : Result := .next ((s.setIp off).setSreg .cs seg)

/-- JMP Jb (EB), R331. -/
def execJmpJb (d : Byte) (s : State) : Result :=
  .next (s.setIp (s.relTarget (.jmpJb d) (sext16 d)))

/-- HLT (F4), R369. Relocating with IP unchanged: a fixed point of `execute`. -/
def execHlt (s : State) : Result := .next s

/-- CALL Ew (FF /2), R337. -/
def execCallEw (e : Ea16) (s : State) : Result :=
  let target := s.get16 (s.locate16 e)
  .next ((s.push (s.nextIp (.callEw e))).setIp target)

/-- JMP Ew (FF /4), R334. -/
def execJmpEw (e : Ea16) (s : State) : Result := .next (s.setIp (s.get16 (s.locate16 e)))

end Sys2Proof.Machine
end

