-- ==== Sys2Proof/Machine/Pic.lean ====
section
/-! DEFINITION. The interrupt controller: command and data writes, reads, requests and
acknowledgement (60_exceptions.md section 5). -/

namespace Sys2Proof.Machine

/-- ICW1, in any stage (R461). -/
def Pic.icw1 (p : Pic) (v : Byte) : Pic :=
  { p with
    single := v.getLsbD 1, needIcw4 := v.getLsbD 0, autoEoi := false, buffered := false,
    nested := false, imr := 0, readSelect := .irr, stage := .expectIcw2 }

/-- OCW2: with bit 5 set the in-service register is cleared, all bits at once (R461, R464). -/
def Pic.ocw2 (p : Pic) (v : Byte) : Pic :=
  if v.getLsbD 5 then { p with isr := 0 } else p

/-- OCW3: with RR set, RIS selects the register that command-port reads return (R461). -/
def Pic.ocw3 (p : Pic) (v : Byte) : Pic :=
  if v.getLsbD 1 then { p with readSelect := if v.getLsbD 0 then .isr else .irr } else p

/-- A write to the command port, a0 = 0 (R461). -/
def Pic.writeCommand (p : Pic) (v : Byte) : Pic :=
  if v.getLsbD 4 then p.icw1 v
  else if v.getLsbD 3 then p.ocw3 v
  else p.ocw2 v

/-- A write to the data port, a0 = 1: the next initialisation word, or OCW1 (R461). -/
def Pic.writeData (p : Pic) (v : Byte) : Pic :=
  match p.stage with
  | .expectIcw2 =>
    { p with
      vectorBase := v &&& 0xF8#8
      stage := if !p.single then .expectIcw3 else if p.needIcw4 then .expectIcw4 else .done }
  | .expectIcw3 =>
    { p with cascade := v, stage := if p.needIcw4 then .expectIcw4 else .done }
  | .expectIcw4 =>
    { p with
      autoEoi := v.getLsbD 1, buffered := v.getLsbD 3, nested := v.getLsbD 4, stage := .done }
  | .idle | .done => { p with imr := v }

/-- `picRead(0)` (R470). -/
def Pic.readCommand (p : Pic) : Byte :=
  match p.readSelect with
  | .irr => p.irr
  | .isr => p.isr

/-- `picRead(1)` (R470). -/
def Pic.readData (p : Pic) : Byte := p.imr

/-- `setInterrupt(irq)`: a masked line's request is lost; a line outside 0 to 7 is ignored
(R475). -/
def Pic.setInterrupt (p : Pic) (irq : Nat) : Pic :=
  if irq < 8 ∧ p.imr.getLsbD irq = false then { p with irr := p.irr ||| (1#8 <<< irq) } else p

/-- The requests that are pending and not masked (R476). -/
def Pic.pending (p : Pic) : Byte := p.irr &&& ~~~p.imr

/-- `intr()` (R421). -/
def Pic.intr (p : Pic) : Bool := p.isr == 0 && p.pending != 0

/-- The number of the lowest bit that is set (R476). -/
def lowestBit (b : Byte) : Nat :=
  if b.getLsbD 0 then 0 else if b.getLsbD 1 then 1 else if b.getLsbD 2 then 2
  else if b.getLsbD 3 then 3 else if b.getLsbD 4 then 4 else if b.getLsbD 5 then 5
  else if b.getLsbD 6 then 6 else 7

/-- `acknowledgeInterrupt()`: the vector `vectorBase OR i` of the lowest pending unmasked line, or
none (R476, R477). -/
def Pic.acknowledge (p : Pic) : Option Byte × Pic :=
  if p.intr then
    let i := lowestBit p.pending
    (some (p.vectorBase ||| BitVec.ofNat 8 i),
      { p with irr := p.irr &&& ~~~(1#8 <<< i), isr := p.isr ||| (1#8 <<< i) })
  else (none, p)

end Sys2Proof.Machine
end

