-- ==== Sys2Proof/Machine/Pit.lean ====
section
/-! DEFINITION. The interval timer: channel operations, control word, port access, tick and the
port-0x61 side channel (60_exceptions.md sections 6 and 7). -/

namespace Sys2Proof.Machine

/-! ## One channel -/

/-- The number of a mode as the direct operation gives it; above 5 there is none (R503, R517). -/
def timerModeOf (m : Nat) : Option TimerMode :=
  match m with
  | 0 => some .m0 | 1 => some .m1 | 2 => some .m2 | 3 => some .m3 | 4 => some .m4 | 5 => some .m5
  | _ => none

/-- `setAccessMode(a)` (R502). -/
def Channel.setAccessMode (c : Channel) (a : AccessMode) : Channel :=
  { c with access := a, writeHigh := false, readHigh := false, writeIncomplete := false }

/-- `setTimerMode(m)` (R503); an m above 5 is ignored (R517). -/
def Channel.setTimerMode (c : Channel) (m : Nat) : Channel :=
  match timerModeOf m with
  | none => c
  | some md =>
    { c with
      mode := md, out := !(md == .m0), counting := false, loadPending := false,
      triggerPending := false, halfFirst := false, strobeArmed := false,
      writeIncomplete := false, writeHigh := false, readHigh := false, latchArmed := false }

/-- Modes in which a complete count write makes the next tick a load (R504). -/
def TimerMode.writeLoads : TimerMode → Bool
  | .m0 | .m2 | .m3 | .m4 => true
  | .m1 | .m5 => false

/-- `complete()` (R504). `lowers` is `MODE0_WRITE_LOWERS_OUT`. -/
def Channel.complete (lowers : Bool) (c : Channel) : Channel :=
  let c := if c.mode.writeLoads then { c with loadPending := true } else c
  if c.mode == .m0 && lowers then { c with out := false } else c

/-- `writeByte(b)` (R504). -/
def Channel.writeByte (lowers : Bool) (c : Channel) (b : Byte) : Channel :=
  match c.access with
  | .lo => Channel.complete lowers { c with setValue := wordOf b 0 }
  | .hi => Channel.complete lowers { c with setValue := wordOf 0 b }
  | .lohi =>
    if !c.writeHigh then
      { c with
        setValue := wordOf b (hiByte c.setValue), writeHigh := true, writeIncomplete := true }
    else
      Channel.complete lowers
        { c with
          setValue := wordOf (loByte c.setValue) b, writeHigh := false, writeIncomplete := false }

/-- `readByte()`: the byte and the channel after (R505). -/
def Channel.readByte (c : Channel) : Byte × Channel :=
  let v := if c.latchArmed then c.latch else c.counter
  match c.access with
  | .lo => (loByte v, { c with latchArmed := false })
  | .hi => (hiByte v, { c with latchArmed := false })
  | .lohi =>
    if !c.readHigh then (loByte v, { c with readHigh := true })
    else (hiByte v, { c with readHigh := false, latchArmed := false })

/-- `setLatch()` (R506). -/
def Channel.setLatch (c : Channel) : Channel :=
  if c.latchArmed then c else { c with latch := c.counter, latchArmed := true }

/-- Modes in which a rising gate edge makes the next tick a load (R507). -/
def TimerMode.edgeTriggers : TimerMode → Bool
  | .m1 | .m2 | .m3 | .m5 => true
  | .m0 | .m4 => false

/-- Modes in which a falling gate edge raises the output (R507). -/
def TimerMode.fallRaises : TimerMode → Bool
  | .m2 | .m3 => true
  | .m0 | .m1 | .m4 | .m5 => false

/-- `setGate(level)` for level 0 or 1 (R507). -/
def Channel.putGate (c : Channel) (level : Bool) : Channel :=
  let rising := !c.gate && level && c.mode.edgeTriggers
  let falling := c.gate && !level && c.mode.fallRaises
  { c with
    gate := level
    triggerPending := c.triggerPending || rising
    out := c.out || falling }

/-- `setGate(level)`; a level other than 0 or 1 is ignored (R507, R517). -/
def Channel.setGate (c : Channel) (level : Nat) : Channel :=
  match level with
  | 0 => c.putGate false
  | 1 => c.putGate true
  | _ => c

/-- Modes that a low gate pauses (R510). -/
def TimerMode.gatePauses : TimerMode → Bool
  | .m0 | .m2 | .m3 | .m4 => true
  | .m1 | .m5 => false

/-- Modes with a one-tick strobe (R510, R515). -/
def TimerMode.strobes : TimerMode → Bool
  | .m4 | .m5 => true
  | .m0 | .m1 | .m2 | .m3 => false

/-- The load tick: the set value enters the counter and nothing is decremented (R510). -/
def Channel.loadTick (c : Channel) : Channel :=
  { c with
    counter := c.setValue, counting := true, loadPending := false, triggerPending := false
    out := if c.mode == .m1 then false else c.out
    halfFirst := if c.mode == .m3 then true else c.halfFirst
    strobeArmed := if c.mode.strobes then true else c.strobeArmed }

/-- What mode 3 takes off the counter: 1 first in a half-cycle of an odd set value, else 2
(R510, R514). -/
def Channel.mode3Step (c : Channel) : Word :=
  if c.halfFirst && c.setValue.getLsbD 0 then 1#16 else 2#16

/-- A counting tick (R510 with R511 to R515). A decrement of 0 gives 0xFFFF (C5). -/
def Channel.countTick (c : Channel) : Channel :=
  match c.mode with
  | .m0 =>
    let n := c.counter - 1#16
    if n = 0#16 then { c with counter := n, out := true } else { c with counter := n }
  | .m1 =>
    let n := c.counter - 1#16
    if n = 0#16 then { c with counter := n, out := true, counting := false }
    else { c with counter := n }
  | .m2 =>
    let n := c.counter - 1#16
    if n = 1#16 then { c with counter := n, out := false }
    else if n = 0#16 then { c with counter := c.setValue, out := true }
    else { c with counter := n }
  | .m3 =>
    let n := c.counter - c.mode3Step
    if n = 0#16 then { c with counter := c.setValue, out := !c.out, halfFirst := true }
    else { c with counter := n, halfFirst := false }
  | .m4 | .m5 =>
    let n := c.counter - 1#16
    if n = 0#16 ∧ c.strobeArmed then { c with counter := n, out := false, strobeArmed := false }
    else { c with counter := n }

/-- The end of the one-tick strobe of modes 4 and 5 (R510). -/
def Channel.endStrobe (c : Channel) : Channel :=
  if c.mode.strobes then { c with out := true } else c

/-- `tick()` of one channel (R510). -/
def Channel.tick (c : Channel) : Channel :=
  let c := c.endStrobe
  if c.writeIncomplete then c
  else if c.loadPending || c.triggerPending then c.loadTick
  else if !c.counting then c
  else if c.mode.gatePauses && !c.gate then c
  else c.countTick

/-! ## The composite -/

/-- A channel by its number. -/
def Pit.get (p : Pit) : ChannelId → Channel
  | .c0 => p.ch0
  | .c1 => p.ch1
  | .c2 => p.ch2

/-- Replace a channel. -/
def Pit.set (p : Pit) (i : ChannelId) (c : Channel) : Pit :=
  match i with
  | .c0 => { p with ch0 := c }
  | .c1 => { p with ch1 := c }
  | .c2 => { p with ch2 := c }

/-- The channel a control word selects; SC = 3 selects none (R501). -/
def selectedChannel (v : Byte) : Option ChannelId :=
  match (v >>> 6).toNat with
  | 0 => some .c0
  | 1 => some .c1
  | 2 => some .c2
  | _ => none

/-- The access mode of a control word; RW = 00 is the latch command (R501). -/
def selectedAccess (v : Byte) : Option AccessMode :=
  match (v.extractLsb' 4 2).toNat with
  | 0 => none
  | 1 => some .lo
  | 2 => some .hi
  | _ => some .lohi

/-- The mode of a control word: 6 is read as 2 and 7 as 3 (R501). -/
def selectedMode (v : Byte) : Nat :=
  let m := (v.extractLsb' 1 3).toNat
  if 6 ≤ m then m - 4 else m

/-- `controlWord(v)` (R501). -/
def Pit.controlWord (p : Pit) (v : Byte) : Pit :=
  match selectedChannel v with
  | none => p
  | some i =>
    match selectedAccess v with
    | none => p.set i (p.get i).setLatch
    | some a => p.set i (((p.get i).setAccessMode a).setTimerMode (selectedMode v))

/-- A write to a data port (R500). -/
def Pit.writeData (lowers : Bool) (p : Pit) (i : ChannelId) (v : Byte) : Pit :=
  p.set i ((p.get i).writeByte lowers v)

/-- A read of a data port (R500). -/
def Pit.readData (p : Pit) (i : ChannelId) : Byte × Pit :=
  ((p.get i).readByte.1, p.set i (p.get i).readByte.2)

/-- A write to port 0x61 (R530). -/
def Pit.write61 (p : Pit) (v : Byte) : Pit :=
  { p with p61 := v, ch2 := p.ch2.putGate (v.getLsbD 0) }

/-- A read of port 0x61 (R530). -/
def Pit.read61 (p : Pit) : Byte :=
  (p.p61 &&& ~~~0x20#8) ||| (if p.ch2.out then 0x20#8 else 0#8)

/-- The composite tick: channels 0, 1, 2 (R520). -/
def Pit.tick (p : Pit) : Pit :=
  { p with ch0 := p.ch0.tick, ch1 := p.ch1.tick, ch2 := p.ch2.tick }

end Sys2Proof.Machine
end

