-- ==== Sys2Proof/Machine/IoBus.lean ====
section
/-! DEFINITION. The I/O bus: port routing and the byte and word accesses (20_memory.md R100 to
R104). -/

namespace Sys2Proof.Machine

/-- Who a port belongs to (20_memory.md R101). -/
inductive PortTarget
  | picCommand
  | picData
  | pitData (i : ChannelId)
  | pitControl
  | port61
  | unrouted
deriving DecidableEq, Repr

/-- The PIT port 0x40 + k for k = 0 to 3 (20_memory.md R101, R102). -/
def pitPort (k : Nat) : PortTarget :=
  match k with
  | 0 => .pitData .c0
  | 1 => .pitData .c1
  | 2 => .pitData .c2
  | _ => .pitControl

/-- Port routing (20_memory.md R101), with 0x50 to 0x5F folded to 0x40 + (p & 3) (R102). -/
def portTarget (p : Word) : PortTarget :=
  let n := p.toNat
  if n = 0x20 then .picCommand
  else if n = 0x21 then .picData
  else if 0x40 ≤ n ∧ n ≤ 0x43 then pitPort (n - 0x40)
  else if 0x50 ≤ n ∧ n ≤ 0x5F then pitPort (n % 4)
  else if n = 0x61 then .port61
  else .unrouted

/-- A byte read of a port and the machine after: a PIT data read moves the channel's toggle and may
release its latch; no other read has an effect (20_memory.md R94, R101, R103). -/
def State.ioByteRead (s : State) (p : Word) : Byte × State :=
  match portTarget p with
  | .picCommand => (s.pic.readCommand, s)
  | .picData => (s.pic.readData, s)
  | .pitData i => ((s.pit.readData i).1, { s with pit := (s.pit.readData i).2 })
  | .pitControl => (Config.undefPortRead, s)
  | .port61 => (s.pit.read61, s)
  | .unrouted => (Config.undefPortRead, s)

/-- A byte write of a port (20_memory.md R101, R103). -/
def State.ioByteWrite (s : State) (p : Word) (v : Byte) : State :=
  match portTarget p with
  | .picCommand => { s with pic := s.pic.writeCommand v }
  | .picData => { s with pic := s.pic.writeData v }
  | .pitData i => { s with pit := s.pit.writeData s.cfg.mode0WriteLowersOut i v }
  | .pitControl => { s with pit := s.pit.controlWord v }
  | .port61 => { s with pit := s.pit.write61 v }
  | .unrouted => s

/-- `IORead(p, 16)`: two byte reads, the low byte first (20_memory.md R100). -/
def State.ioWordRead (s : State) (p : Word) : Word × State :=
  let (lo, s) := s.ioByteRead p
  let (hi, s) := s.ioByteRead (p + 1#16)
  (wordOf lo hi, s)

/-- `IOWrite(p, 16, v)`: two byte writes, the low byte first (20_memory.md R100). -/
def State.ioWordWrite (s : State) (p : Word) (v : Word) : State :=
  (s.ioByteWrite p (loByte v)).ioByteWrite (p + 1#16) (hiByte v)

end Sys2Proof.Machine
end

