-- ==== Sys2Proof/Machine/DataTransfer.lean ====
section
/-! DEFINITION. MOV, the stack instructions and I/O (40_data_transfer.md). Every meaning ends in
`advance`: none relocates. -/

namespace Sys2Proof.Machine

/-! ## Shared operations -/

/-- MOV r8,Ib (R205). -/
def movR8Ib (i : Instr) (r : Reg8) (imm : Byte) (s : State) : Result :=
  .next ((s.setR8 r imm).advance i)

/-- MOV r16,Iw (R206). -/
def movR16Iw (i : Instr) (r : Reg16) (imm : Word) (s : State) : Result :=
  .next ((s.setR16 r imm).advance i)

/-- PUSH r16 (R211): PUSH SP stores the decremented SP. -/
def pushR16 (i : Instr) (r : Reg16) (s : State) : Result :=
  .next ((s.push (if r = .sp then s.r16 .sp - 2#16 else s.r16 r)).advance i)

/-- POP r16 (R212): POP SP leaves the popped value. -/
def popR16 (i : Instr) (r : Reg16) (s : State) : Result :=
  let (v, t) := s.pop
  .next ((t.setR16 r v).advance i)

/-- PUSH of a segment register (R213). -/
def pushSreg (i : Instr) (r : SReg) (s : State) : Result :=
  .next ((s.push (s.sreg r)).advance i)

/-- POP of a segment register (R214): POP SS reads with the old SS. -/
def popSreg (i : Instr) (r : SReg) (s : State) : Result :=
  let (v, t) := s.pop
  .next ((t.setSreg r v).advance i)

/-- IN AL from a port (R230, R232). -/
def inAl (i : Instr) (port : Word) (s : State) : Result :=
  let (v, t) := s.ioByteRead port
  .next ((t.setR8 .al v).advance i)

/-- IN AX from a port (R230, R232). -/
def inAx (i : Instr) (port : Word) (s : State) : Result :=
  let (v, t) := s.ioWordRead port
  .next ((t.setR16 .ax v).advance i)

/-- OUT of AL to a port (R231, R233). -/
def outAl (i : Instr) (port : Word) (s : State) : Result :=
  .next ((s.ioByteWrite port (s.r8 .al)).advance i)

/-- OUT of AX to a port (R231, R233). -/
def outAx (i : Instr) (port : Word) (s : State) : Result :=
  .next ((s.ioWordWrite port (s.r16 .ax)).advance i)

/-! ## The instructions -/

/-- PUSH ES (06), R213. -/
def execPushEs (s : State) : Result := pushSreg .pushEs .es s

/-- POP ES (07), R214. -/
def execPopEs (s : State) : Result := popSreg .popEs .es s

/-- PUSH CS (0E), R213. -/
def execPushCs (s : State) : Result := pushSreg .pushCs .cs s

/-- PUSH SS (16), R213. -/
def execPushSs (s : State) : Result := pushSreg .pushSs .ss s

/-- POP SS (17), R214. -/
def execPopSs (s : State) : Result := popSreg .popSs .ss s

/-- PUSH DS (1E), R213. -/
def execPushDs (s : State) : Result := pushSreg .pushDs .ds s

/-- POP DS (1F), R214. -/
def execPopDs (s : State) : Result := popSreg .popDs .ds s

/-- PUSH AX (50), R211. -/
def execPushAx (s : State) : Result := pushR16 .pushAx .ax s

/-- PUSH CX (51), R211. -/
def execPushCx (s : State) : Result := pushR16 .pushCx .cx s

/-- PUSH DX (52), R211. -/
def execPushDx (s : State) : Result := pushR16 .pushDx .dx s

/-- PUSH BX (53), R211. -/
def execPushBx (s : State) : Result := pushR16 .pushBx .bx s

/-- PUSH SP (54), R211. -/
def execPushSp (s : State) : Result := pushR16 .pushSp .sp s

/-- PUSH BP (55), R211. -/
def execPushBp (s : State) : Result := pushR16 .pushBp .bp s

/-- PUSH SI (56), R211. -/
def execPushSi (s : State) : Result := pushR16 .pushSi .si s

/-- PUSH DI (57), R211. -/
def execPushDi (s : State) : Result := pushR16 .pushDi .di s

/-- POP AX (58), R212. -/
def execPopAx (s : State) : Result := popR16 .popAx .ax s

/-- POP CX (59), R212. -/
def execPopCx (s : State) : Result := popR16 .popCx .cx s

/-- POP DX (5A), R212. -/
def execPopDx (s : State) : Result := popR16 .popDx .dx s

/-- POP BX (5B), R212. -/
def execPopBx (s : State) : Result := popR16 .popBx .bx s

/-- POP SP (5C), R212. -/
def execPopSp (s : State) : Result := popR16 .popSp .sp s

/-- POP BP (5D), R212. -/
def execPopBp (s : State) : Result := popR16 .popBp .bp s

/-- POP SI (5E), R212. -/
def execPopSi (s : State) : Result := popR16 .popSi .si s

/-- POP DI (5F), R212. -/
def execPopDi (s : State) : Result := popR16 .popDi .di s

/-- MOV Eb,Gb (88), R200. -/
def execMovEbGb (e : Ea8) (g : Reg8) (s : State) : Result :=
  .next ((s.put8 (s.locate8 e) (s.r8 g)).advance (.movEbGb e g))

/-- MOV Ew,Gw (89), R200. -/
def execMovEwGw (e : Ea16) (g : Reg16) (s : State) : Result :=
  .next ((s.put16 (s.locate16 e) (s.r16 g)).advance (.movEwGw e g))

/-- MOV Gb,Eb (8A), R200. -/
def execMovGbEb (g : Reg8) (e : Ea8) (s : State) : Result :=
  .next ((s.setR8 g (s.get8 (s.locate8 e))).advance (.movGbEb g e))

/-- MOV Gw,Ew (8B), R200. -/
def execMovGwEw (g : Reg16) (e : Ea16) (s : State) : Result :=
  .next ((s.setR16 g (s.get16 (s.locate16 e))).advance (.movGwEw g e))

/-- MOV Ew,Sw (8C), R201. -/
def execMovEwSw (e : Ea16) (sr : SReg) (s : State) : Result :=
  .next ((s.put16 (s.locate16 e) (s.sreg sr)).advance (.movEwSw e sr))

/-- MOV Sw,Ew (8E), R202. -/
def execMovSwEw (sr : SReg) (e : Ea16) (s : State) : Result :=
  .next ((s.setSreg sr (s.get16 (s.locate16 e))).advance (.movSwEw sr e))

/-- POP Ew (8F /0), R216. The operand is located before SP moves. -/
def execPopEw (e : Ea16) (s : State) : Result :=
  let l := s.locate16 e
  let (v, t) := s.pop
  .next ((t.put16 l v).advance (.popEw e))

/-- PUSHF (9C), R217. -/
def execPushf (s : State) : Result := .next ((s.push s.flags).advance .pushf)

/-- POPF (9D), R218. -/
def execPopf (s : State) : Result :=
  let (v, t) := s.pop
  .next ((t.setFlags v).advance .popf)

/-- MOV AL,Ob (A0), R203. -/
def execMovAlOb (off : Word) (s : State) : Result :=
  .next ((s.setR8 .al (s.readMem8 s.offsetSegment off)).advance (.movAlOb off))

/-- MOV AX,Ow (A1), R203. -/
def execMovAxOw (off : Word) (s : State) : Result :=
  .next ((s.setR16 .ax (s.readMem16 s.offsetSegment off)).advance (.movAxOw off))

/-- MOV Ob,AL (A2), R204. -/
def execMovObAl (off : Word) (s : State) : Result :=
  .next ((s.writeMem8 s.offsetSegment off (s.r8 .al)).advance (.movObAl off))

/-- MOV Ow,AX (A3), R204. -/
def execMovOwAx (off : Word) (s : State) : Result :=
  .next ((s.writeMem16 s.offsetSegment off (s.r16 .ax)).advance (.movOwAx off))

/-- MOV AL,Ib (B0), R205. -/
def execMovAlIb (imm : Byte) (s : State) : Result := movR8Ib (.movAlIb imm) .al imm s

/-- MOV CL,Ib (B1), R205. -/
def execMovClIb (imm : Byte) (s : State) : Result := movR8Ib (.movClIb imm) .cl imm s

/-- MOV DL,Ib (B2), R205. -/
def execMovDlIb (imm : Byte) (s : State) : Result := movR8Ib (.movDlIb imm) .dl imm s

/-- MOV BL,Ib (B3), R205. -/
def execMovBlIb (imm : Byte) (s : State) : Result := movR8Ib (.movBlIb imm) .bl imm s

/-- MOV AH,Ib (B4), R205. -/
def execMovAhIb (imm : Byte) (s : State) : Result := movR8Ib (.movAhIb imm) .ah imm s

/-- MOV CH,Ib (B5), R205. -/
def execMovChIb (imm : Byte) (s : State) : Result := movR8Ib (.movChIb imm) .ch imm s

/-- MOV DH,Ib (B6), R205. -/
def execMovDhIb (imm : Byte) (s : State) : Result := movR8Ib (.movDhIb imm) .dh imm s

/-- MOV BH,Ib (B7), R205. -/
def execMovBhIb (imm : Byte) (s : State) : Result := movR8Ib (.movBhIb imm) .bh imm s

/-- MOV AX,Iw (B8), R206. -/
def execMovAxIw (imm : Word) (s : State) : Result := movR16Iw (.movAxIw imm) .ax imm s

/-- MOV CX,Iw (B9), R206. -/
def execMovCxIw (imm : Word) (s : State) : Result := movR16Iw (.movCxIw imm) .cx imm s

/-- MOV DX,Iw (BA), R206. -/
def execMovDxIw (imm : Word) (s : State) : Result := movR16Iw (.movDxIw imm) .dx imm s

/-- MOV BX,Iw (BB), R206. -/
def execMovBxIw (imm : Word) (s : State) : Result := movR16Iw (.movBxIw imm) .bx imm s

/-- MOV SP,Iw (BC), R206. -/
def execMovSpIw (imm : Word) (s : State) : Result := movR16Iw (.movSpIw imm) .sp imm s

/-- MOV BP,Iw (BD), R206. -/
def execMovBpIw (imm : Word) (s : State) : Result := movR16Iw (.movBpIw imm) .bp imm s

/-- MOV SI,Iw (BE), R206. -/
def execMovSiIw (imm : Word) (s : State) : Result := movR16Iw (.movSiIw imm) .si imm s

/-- MOV DI,Iw (BF), R206. -/
def execMovDiIw (imm : Word) (s : State) : Result := movR16Iw (.movDiIw imm) .di imm s

/-- MOV Eb,Ib (C6 /0), R207. -/
def execMovEbIb (e : Ea8) (imm : Byte) (s : State) : Result :=
  .next ((s.put8 (s.locate8 e) imm).advance (.movEbIb e imm))

/-- MOV Ew,Iw (C7 /0), R207. -/
def execMovEwIw (e : Ea16) (imm : Word) (s : State) : Result :=
  .next ((s.put16 (s.locate16 e) imm).advance (.movEwIw e imm))

/-- IN AL,Ib (E4), R230. -/
def execInAlIb (port : Byte) (s : State) : Result := inAl (.inAlIb port) (zext16 port) s

/-- IN AX,Ib (E5), R230. -/
def execInAxIb (port : Byte) (s : State) : Result := inAx (.inAxIb port) (zext16 port) s

/-- OUT Ib,AL (E6), R231. -/
def execOutIbAl (port : Byte) (s : State) : Result := outAl (.outIbAl port) (zext16 port) s

/-- OUT Ib,AX (E7), R231. -/
def execOutIbAx (port : Byte) (s : State) : Result := outAx (.outIbAx port) (zext16 port) s

/-- IN AL,DX (EC), R232. -/
def execInAlDx (s : State) : Result := inAl .inAlDx (s.r16 .dx) s

/-- IN AX,DX (ED), R232. -/
def execInAxDx (s : State) : Result := inAx .inAxDx (s.r16 .dx) s

/-- OUT DX,AL (EE), R233. -/
def execOutDxAl (s : State) : Result := outAl .outDxAl (s.r16 .dx) s

/-- OUT DX,AX (EF), R233. -/
def execOutDxAx (s : State) : Result := outAx .outDxAx (s.r16 .dx) s

/-- PUSH Ew (FF /6), R215. PUSH SP stores the decremented SP. -/
def execPushEw (e : Ea16) (s : State) : Result :=
  let v := if e = .reg .sp then s.r16 .sp - 2#16 else s.get16 (s.locate16 e)
  .next ((s.push v).advance (.pushEw e))

end Sys2Proof.Machine
end

