-- ==== Sys2Proof/Machine/FlagControl.lean ====
section
/-! DEFINITION. The seven flag instructions and NOP (44_flag_control.md). Each changes the flag it
names and advances IP. -/

namespace Sys2Proof.Machine

/-- NOP (90), R387. -/
def execNop (s : State) : Result := .next (s.advance .nop)

/-- CMC (F5), R382. -/
def execCmc (s : State) : Result := .next ((s.setFlag .cf (!s.flag .cf)).advance .cmc)

/-- CLC (F8), R380. -/
def execClc (s : State) : Result := .next ((s.setFlag .cf false).advance .clc)

/-- STC (F9), R381. -/
def execStc (s : State) : Result := .next ((s.setFlag .cf true).advance .stc)

/-- CLI (FA), R383. -/
def execCli (s : State) : Result := .next ((s.setFlag .ifl false).advance .cli)

/-- STI (FB), R384. -/
def execSti (s : State) : Result := .next ((s.setFlag .ifl true).advance .sti)

/-- CLD (FC), R385. -/
def execCld (s : State) : Result := .next ((s.setFlag .df false).advance .cld)

/-- STD (FD), R386. -/
def execStd (s : State) : Result := .next ((s.setFlag .df true).advance .std)

end Sys2Proof.Machine
end

