-- ==== Sys2Proof/Machine/SegPrefix.lean ====
section
/-! DEFINITION. The four segment-override prefixes (30_encoding.md R140, R141): one round of the
prefix loop of R131 each. -/

namespace Sys2Proof.Machine

/-- One round of the prefix loop: `seg_ovr` takes the prefix's segment register, so the last prefix
decides (R141), and the byte counts in `len` (R140). IP does not move (10_state.md R34). -/
def State.takePrefix (s : State) (r : SReg) : State :=
  { s with segOvr := some r, prefixLen := s.prefixLen + 1#16 }

/-- ES: prefix (26), R140. -/
def execEsPrefix (s : State) : Result := .next (s.takePrefix .es)

/-- CS: prefix (2E), R140. -/
def execCsPrefix (s : State) : Result := .next (s.takePrefix .cs)

/-- SS: prefix (36), R140. -/
def execSsPrefix (s : State) : Result := .next (s.takePrefix .ss)

/-- DS: prefix (3E), R140. -/
def execDsPrefix (s : State) : Result := .next (s.takePrefix .ds)

end Sys2Proof.Machine
end

