-- ==== Sys2Proof/Machine/ShiftRotate.lean ====
section
/-! DEFINITION. The shift and rotate group (42_shift_rotate.md). Every meaning ends in `advance`. -/

namespace Sys2Proof.Machine

/-! ## Shared operations -/

/-- `shiftop` on a byte operand with count n (R301): a count of 0 changes nothing; otherwise n bit
steps, one write, the flags, and the counter of draws where a flag was drawn (R309). -/
def State.shift8 (s : State) (k : ShiftOp) (n : Nat) (e : Ea8) : State :=
  let l := s.locate8 e
  let x0 := s.get8 l
  if n = 0 then s
  else
    let p := shiftSteps k n x0 (s.flag .cf)
    let t := (s.put8 l p.1).setFlags
      (shiftFlags s.cfg.flagsAlwaysSet k n x0 p.1 p.2 s.draws s.flags)
    { t with draws := if shiftDraws k n then s.draws + 1 else s.draws }

/-- `shiftop` on a word operand with count n (R301, R309). -/
def State.shift16 (s : State) (k : ShiftOp) (n : Nat) (e : Ea16) : State :=
  let l := s.locate16 e
  let x0 := s.get16 l
  if n = 0 then s
  else
    let p := shiftSteps k n x0 (s.flag .cf)
    let t := (s.put16 l p.1).setFlags
      (shiftFlags s.cfg.flagsAlwaysSet k n x0 p.1 p.2 s.draws s.flags)
    { t with draws := if shiftDraws k n then s.draws + 1 else s.draws }

/-- The count of the CL forms: CL taken whole, not masked (R301). -/
def State.clCount (s : State) : Nat := (s.r8 .cl).toNat

/-! ## The instructions -/

/-- ROL Eb,1 (D0 /0), R302. -/
def execRolEb1 (e : Ea8) (s : State) : Result := .next ((s.shift8 .rol 1 e).advance (.rolEb1 e))

/-- ROL Ew,1 (D1 /0), R302. -/
def execRolEw1 (e : Ea16) (s : State) : Result := .next ((s.shift16 .rol 1 e).advance (.rolEw1 e))

/-- ROL Eb,CL (D2 /0), R302. -/
def execRolEbCl (e : Ea8) (s : State) : Result :=
  .next ((s.shift8 .rol s.clCount e).advance (.rolEbCl e))

/-- ROL Ew,CL (D3 /0), R302. -/
def execRolEwCl (e : Ea16) (s : State) : Result :=
  .next ((s.shift16 .rol s.clCount e).advance (.rolEwCl e))

/-- ROR Eb,1 (D0 /1), R303. -/
def execRorEb1 (e : Ea8) (s : State) : Result := .next ((s.shift8 .ror 1 e).advance (.rorEb1 e))

/-- ROR Ew,1 (D1 /1), R303. -/
def execRorEw1 (e : Ea16) (s : State) : Result := .next ((s.shift16 .ror 1 e).advance (.rorEw1 e))

/-- ROR Eb,CL (D2 /1), R303. -/
def execRorEbCl (e : Ea8) (s : State) : Result :=
  .next ((s.shift8 .ror s.clCount e).advance (.rorEbCl e))

/-- ROR Ew,CL (D3 /1), R303. -/
def execRorEwCl (e : Ea16) (s : State) : Result :=
  .next ((s.shift16 .ror s.clCount e).advance (.rorEwCl e))

/-- RCL Eb,1 (D0 /2), R304. -/
def execRclEb1 (e : Ea8) (s : State) : Result := .next ((s.shift8 .rcl 1 e).advance (.rclEb1 e))

/-- RCL Ew,1 (D1 /2), R304. -/
def execRclEw1 (e : Ea16) (s : State) : Result := .next ((s.shift16 .rcl 1 e).advance (.rclEw1 e))

/-- RCL Eb,CL (D2 /2), R304. -/
def execRclEbCl (e : Ea8) (s : State) : Result :=
  .next ((s.shift8 .rcl s.clCount e).advance (.rclEbCl e))

/-- RCL Ew,CL (D3 /2), R304. -/
def execRclEwCl (e : Ea16) (s : State) : Result :=
  .next ((s.shift16 .rcl s.clCount e).advance (.rclEwCl e))

/-- RCR Eb,1 (D0 /3), R305. -/
def execRcrEb1 (e : Ea8) (s : State) : Result := .next ((s.shift8 .rcr 1 e).advance (.rcrEb1 e))

/-- RCR Ew,1 (D1 /3), R305. -/
def execRcrEw1 (e : Ea16) (s : State) : Result := .next ((s.shift16 .rcr 1 e).advance (.rcrEw1 e))

/-- RCR Eb,CL (D2 /3), R305. -/
def execRcrEbCl (e : Ea8) (s : State) : Result :=
  .next ((s.shift8 .rcr s.clCount e).advance (.rcrEbCl e))

/-- RCR Ew,CL (D3 /3), R305. -/
def execRcrEwCl (e : Ea16) (s : State) : Result :=
  .next ((s.shift16 .rcr s.clCount e).advance (.rcrEwCl e))

/-- SHL Eb,1 (D0 /4), R306. -/
def execShlEb1 (e : Ea8) (s : State) : Result := .next ((s.shift8 .shl 1 e).advance (.shlEb1 e))

/-- SHL Ew,1 (D1 /4), R306. -/
def execShlEw1 (e : Ea16) (s : State) : Result := .next ((s.shift16 .shl 1 e).advance (.shlEw1 e))

/-- SHL Eb,CL (D2 /4), R306. -/
def execShlEbCl (e : Ea8) (s : State) : Result :=
  .next ((s.shift8 .shl s.clCount e).advance (.shlEbCl e))

/-- SHL Ew,CL (D3 /4), R306. -/
def execShlEwCl (e : Ea16) (s : State) : Result :=
  .next ((s.shift16 .shl s.clCount e).advance (.shlEwCl e))

/-- SHR Eb,1 (D0 /5), R307. -/
def execShrEb1 (e : Ea8) (s : State) : Result := .next ((s.shift8 .shr 1 e).advance (.shrEb1 e))

/-- SHR Ew,1 (D1 /5), R307. -/
def execShrEw1 (e : Ea16) (s : State) : Result := .next ((s.shift16 .shr 1 e).advance (.shrEw1 e))

/-- SHR Eb,CL (D2 /5), R307. -/
def execShrEbCl (e : Ea8) (s : State) : Result :=
  .next ((s.shift8 .shr s.clCount e).advance (.shrEbCl e))

/-- SHR Ew,CL (D3 /5), R307. -/
def execShrEwCl (e : Ea16) (s : State) : Result :=
  .next ((s.shift16 .shr s.clCount e).advance (.shrEwCl e))

/-- SAR Eb,1 (D0 /7), R308. -/
def execSarEb1 (e : Ea8) (s : State) : Result := .next ((s.shift8 .sar 1 e).advance (.sarEb1 e))

/-- SAR Ew,1 (D1 /7), R308. -/
def execSarEw1 (e : Ea16) (s : State) : Result := .next ((s.shift16 .sar 1 e).advance (.sarEw1 e))

/-- SAR Eb,CL (D2 /7), R308. -/
def execSarEbCl (e : Ea8) (s : State) : Result :=
  .next ((s.shift8 .sar s.clCount e).advance (.sarEbCl e))

/-- SAR Ew,CL (D3 /7), R308. -/
def execSarEwCl (e : Ea16) (s : State) : Result :=
  .next ((s.shift16 .sar s.clCount e).advance (.sarEwCl e))

end Sys2Proof.Machine
end

