-- ==== Sys2Proof/Machine/Dispatch.lean ====
section
/-! DEFINITION. One arm per instruction: the direct call of its meaning. -/

namespace Sys2Proof.Machine

/-- Perform one instruction (30_encoding.md R131, `perform(row)`). -/
def exec (i : Instr) (s : State) : Host.Outcome State Fault Refusal :=
  match i with
  | .addEbGb e g => Sys2Proof.Machine.execAddEbGb e g s
  | .addEwGw e g => Sys2Proof.Machine.execAddEwGw e g s
  | .addGbEb g e => Sys2Proof.Machine.execAddGbEb g e s
  | .addGwEw g e => Sys2Proof.Machine.execAddGwEw g e s
  | .addAlIb imm => Sys2Proof.Machine.execAddAlIb imm s
  | .addAxIw imm => Sys2Proof.Machine.execAddAxIw imm s
  | .orEbGb e g => Sys2Proof.Machine.execOrEbGb e g s
  | .orEwGw e g => Sys2Proof.Machine.execOrEwGw e g s
  | .orGbEb g e => Sys2Proof.Machine.execOrGbEb g e s
  | .orGwEw g e => Sys2Proof.Machine.execOrGwEw g e s
  | .orAlIb imm => Sys2Proof.Machine.execOrAlIb imm s
  | .orAxIw imm => Sys2Proof.Machine.execOrAxIw imm s
  | .adcEbGb e g => Sys2Proof.Machine.execAdcEbGb e g s
  | .adcEwGw e g => Sys2Proof.Machine.execAdcEwGw e g s
  | .adcGbEb g e => Sys2Proof.Machine.execAdcGbEb g e s
  | .adcGwEw g e => Sys2Proof.Machine.execAdcGwEw g e s
  | .adcAlIb imm => Sys2Proof.Machine.execAdcAlIb imm s
  | .adcAxIw imm => Sys2Proof.Machine.execAdcAxIw imm s
  | .sbbEbGb e g => Sys2Proof.Machine.execSbbEbGb e g s
  | .sbbEwGw e g => Sys2Proof.Machine.execSbbEwGw e g s
  | .sbbGbEb g e => Sys2Proof.Machine.execSbbGbEb g e s
  | .sbbGwEw g e => Sys2Proof.Machine.execSbbGwEw g e s
  | .sbbAlIb imm => Sys2Proof.Machine.execSbbAlIb imm s
  | .sbbAxIw imm => Sys2Proof.Machine.execSbbAxIw imm s
  | .andEbGb e g => Sys2Proof.Machine.execAndEbGb e g s
  | .andEwGw e g => Sys2Proof.Machine.execAndEwGw e g s
  | .andGbEb g e => Sys2Proof.Machine.execAndGbEb g e s
  | .andGwEw g e => Sys2Proof.Machine.execAndGwEw g e s
  | .andAlIb imm => Sys2Proof.Machine.execAndAlIb imm s
  | .andAxIw imm => Sys2Proof.Machine.execAndAxIw imm s
  | .subEbGb e g => Sys2Proof.Machine.execSubEbGb e g s
  | .subEwGw e g => Sys2Proof.Machine.execSubEwGw e g s
  | .subGbEb g e => Sys2Proof.Machine.execSubGbEb g e s
  | .subGwEw g e => Sys2Proof.Machine.execSubGwEw g e s
  | .subAlIb imm => Sys2Proof.Machine.execSubAlIb imm s
  | .subAxIw imm => Sys2Proof.Machine.execSubAxIw imm s
  | .xorEbGb e g => Sys2Proof.Machine.execXorEbGb e g s
  | .xorEwGw e g => Sys2Proof.Machine.execXorEwGw e g s
  | .xorGbEb g e => Sys2Proof.Machine.execXorGbEb g e s
  | .xorGwEw g e => Sys2Proof.Machine.execXorGwEw g e s
  | .xorAlIb imm => Sys2Proof.Machine.execXorAlIb imm s
  | .xorAxIw imm => Sys2Proof.Machine.execXorAxIw imm s
  | .cmpEbGb e g => Sys2Proof.Machine.execCmpEbGb e g s
  | .cmpEwGw e g => Sys2Proof.Machine.execCmpEwGw e g s
  | .cmpGbEb g e => Sys2Proof.Machine.execCmpGbEb g e s
  | .cmpGwEw g e => Sys2Proof.Machine.execCmpGwEw g e s
  | .cmpAlIb imm => Sys2Proof.Machine.execCmpAlIb imm s
  | .cmpAxIw imm => Sys2Proof.Machine.execCmpAxIw imm s
  | .addEbIb e imm => Sys2Proof.Machine.execAddEbIb e imm s
  | .addEwIw e imm => Sys2Proof.Machine.execAddEwIw e imm s
  | .addEwIbs e imm => Sys2Proof.Machine.execAddEwIbs e imm s
  | .orEbIb e imm => Sys2Proof.Machine.execOrEbIb e imm s
  | .orEwIw e imm => Sys2Proof.Machine.execOrEwIw e imm s
  | .orEwIbs e imm => Sys2Proof.Machine.execOrEwIbs e imm s
  | .adcEbIb e imm => Sys2Proof.Machine.execAdcEbIb e imm s
  | .adcEwIw e imm => Sys2Proof.Machine.execAdcEwIw e imm s
  | .adcEwIbs e imm => Sys2Proof.Machine.execAdcEwIbs e imm s
  | .sbbEbIb e imm => Sys2Proof.Machine.execSbbEbIb e imm s
  | .sbbEwIw e imm => Sys2Proof.Machine.execSbbEwIw e imm s
  | .sbbEwIbs e imm => Sys2Proof.Machine.execSbbEwIbs e imm s
  | .andEbIb e imm => Sys2Proof.Machine.execAndEbIb e imm s
  | .andEwIw e imm => Sys2Proof.Machine.execAndEwIw e imm s
  | .andEwIbs e imm => Sys2Proof.Machine.execAndEwIbs e imm s
  | .subEbIb e imm => Sys2Proof.Machine.execSubEbIb e imm s
  | .subEwIw e imm => Sys2Proof.Machine.execSubEwIw e imm s
  | .subEwIbs e imm => Sys2Proof.Machine.execSubEwIbs e imm s
  | .xorEbIb e imm => Sys2Proof.Machine.execXorEbIb e imm s
  | .xorEwIw e imm => Sys2Proof.Machine.execXorEwIw e imm s
  | .xorEwIbs e imm => Sys2Proof.Machine.execXorEwIbs e imm s
  | .cmpEbIb e imm => Sys2Proof.Machine.execCmpEbIb e imm s
  | .cmpEwIw e imm => Sys2Proof.Machine.execCmpEwIw e imm s
  | .cmpEwIbs e imm => Sys2Proof.Machine.execCmpEwIbs e imm s
  | .pushEs => Sys2Proof.Machine.execPushEs s
  | .popEs => Sys2Proof.Machine.execPopEs s
  | .pushCs => Sys2Proof.Machine.execPushCs s
  | .pushSs => Sys2Proof.Machine.execPushSs s
  | .popSs => Sys2Proof.Machine.execPopSs s
  | .pushDs => Sys2Proof.Machine.execPushDs s
  | .popDs => Sys2Proof.Machine.execPopDs s
  | .esPrefix => Sys2Proof.Machine.execEsPrefix s
  | .csPrefix => Sys2Proof.Machine.execCsPrefix s
  | .ssPrefix => Sys2Proof.Machine.execSsPrefix s
  | .dsPrefix => Sys2Proof.Machine.execDsPrefix s
  | .incAx => Sys2Proof.Machine.execIncAx s
  | .incCx => Sys2Proof.Machine.execIncCx s
  | .incDx => Sys2Proof.Machine.execIncDx s
  | .incBx => Sys2Proof.Machine.execIncBx s
  | .incSp => Sys2Proof.Machine.execIncSp s
  | .incBp => Sys2Proof.Machine.execIncBp s
  | .incSi => Sys2Proof.Machine.execIncSi s
  | .incDi => Sys2Proof.Machine.execIncDi s
  | .decAx => Sys2Proof.Machine.execDecAx s
  | .decCx => Sys2Proof.Machine.execDecCx s
  | .decDx => Sys2Proof.Machine.execDecDx s
  | .decBx => Sys2Proof.Machine.execDecBx s
  | .decSp => Sys2Proof.Machine.execDecSp s
  | .decBp => Sys2Proof.Machine.execDecBp s
  | .decSi => Sys2Proof.Machine.execDecSi s
  | .decDi => Sys2Proof.Machine.execDecDi s
  | .pushAx => Sys2Proof.Machine.execPushAx s
  | .pushCx => Sys2Proof.Machine.execPushCx s
  | .pushDx => Sys2Proof.Machine.execPushDx s
  | .pushBx => Sys2Proof.Machine.execPushBx s
  | .pushSp => Sys2Proof.Machine.execPushSp s
  | .pushBp => Sys2Proof.Machine.execPushBp s
  | .pushSi => Sys2Proof.Machine.execPushSi s
  | .pushDi => Sys2Proof.Machine.execPushDi s
  | .popAx => Sys2Proof.Machine.execPopAx s
  | .popCx => Sys2Proof.Machine.execPopCx s
  | .popDx => Sys2Proof.Machine.execPopDx s
  | .popBx => Sys2Proof.Machine.execPopBx s
  | .popSp => Sys2Proof.Machine.execPopSp s
  | .popBp => Sys2Proof.Machine.execPopBp s
  | .popSi => Sys2Proof.Machine.execPopSi s
  | .popDi => Sys2Proof.Machine.execPopDi s
  | .joJb d => Sys2Proof.Machine.execJoJb d s
  | .jnoJb d => Sys2Proof.Machine.execJnoJb d s
  | .jbJb d => Sys2Proof.Machine.execJbJb d s
  | .jnbJb d => Sys2Proof.Machine.execJnbJb d s
  | .jzJb d => Sys2Proof.Machine.execJzJb d s
  | .jnzJb d => Sys2Proof.Machine.execJnzJb d s
  | .jbeJb d => Sys2Proof.Machine.execJbeJb d s
  | .jaJb d => Sys2Proof.Machine.execJaJb d s
  | .jsJb d => Sys2Proof.Machine.execJsJb d s
  | .jnsJb d => Sys2Proof.Machine.execJnsJb d s
  | .jpJb d => Sys2Proof.Machine.execJpJb d s
  | .jnpJb d => Sys2Proof.Machine.execJnpJb d s
  | .jlJb d => Sys2Proof.Machine.execJlJb d s
  | .jgeJb d => Sys2Proof.Machine.execJgeJb d s
  | .jleJb d => Sys2Proof.Machine.execJleJb d s
  | .jgJb d => Sys2Proof.Machine.execJgJb d s
  | .testEbGb e g => Sys2Proof.Machine.execTestEbGb e g s
  | .testEwGw e g => Sys2Proof.Machine.execTestEwGw e g s
  | .movEbGb e g => Sys2Proof.Machine.execMovEbGb e g s
  | .movEwGw e g => Sys2Proof.Machine.execMovEwGw e g s
  | .movGbEb g e => Sys2Proof.Machine.execMovGbEb g e s
  | .movGwEw g e => Sys2Proof.Machine.execMovGwEw g e s
  | .movEwSw e sr => Sys2Proof.Machine.execMovEwSw e sr s
  | .movSwEw sr e => Sys2Proof.Machine.execMovSwEw sr e s
  | .popEw e => Sys2Proof.Machine.execPopEw e s
  | .nop => Sys2Proof.Machine.execNop s
  | .callAp off seg => Sys2Proof.Machine.execCallAp off seg s
  | .pushf => Sys2Proof.Machine.execPushf s
  | .popf => Sys2Proof.Machine.execPopf s
  | .movAlOb off => Sys2Proof.Machine.execMovAlOb off s
  | .movAxOw off => Sys2Proof.Machine.execMovAxOw off s
  | .movObAl off => Sys2Proof.Machine.execMovObAl off s
  | .movOwAx off => Sys2Proof.Machine.execMovOwAx off s
  | .testAlIb imm => Sys2Proof.Machine.execTestAlIb imm s
  | .testAxIw imm => Sys2Proof.Machine.execTestAxIw imm s
  | .movAlIb imm => Sys2Proof.Machine.execMovAlIb imm s
  | .movClIb imm => Sys2Proof.Machine.execMovClIb imm s
  | .movDlIb imm => Sys2Proof.Machine.execMovDlIb imm s
  | .movBlIb imm => Sys2Proof.Machine.execMovBlIb imm s
  | .movAhIb imm => Sys2Proof.Machine.execMovAhIb imm s
  | .movChIb imm => Sys2Proof.Machine.execMovChIb imm s
  | .movDhIb imm => Sys2Proof.Machine.execMovDhIb imm s
  | .movBhIb imm => Sys2Proof.Machine.execMovBhIb imm s
  | .movAxIw imm => Sys2Proof.Machine.execMovAxIw imm s
  | .movCxIw imm => Sys2Proof.Machine.execMovCxIw imm s
  | .movDxIw imm => Sys2Proof.Machine.execMovDxIw imm s
  | .movBxIw imm => Sys2Proof.Machine.execMovBxIw imm s
  | .movSpIw imm => Sys2Proof.Machine.execMovSpIw imm s
  | .movBpIw imm => Sys2Proof.Machine.execMovBpIw imm s
  | .movSiIw imm => Sys2Proof.Machine.execMovSiIw imm s
  | .movDiIw imm => Sys2Proof.Machine.execMovDiIw imm s
  | .retIw imm => Sys2Proof.Machine.execRetIw imm s
  | .ret => Sys2Proof.Machine.execRet s
  | .movEbIb e imm => Sys2Proof.Machine.execMovEbIb e imm s
  | .movEwIw e imm => Sys2Proof.Machine.execMovEwIw e imm s
  | .retfIw imm => Sys2Proof.Machine.execRetfIw imm s
  | .retf => Sys2Proof.Machine.execRetf s
  | .int3 => Sys2Proof.Machine.execInt3 s
  | .intIb n => Sys2Proof.Machine.execIntIb n s
  | .into => Sys2Proof.Machine.execInto s
  | .iret => Sys2Proof.Machine.execIret s
  | .rolEb1 e => Sys2Proof.Machine.execRolEb1 e s
  | .rolEw1 e => Sys2Proof.Machine.execRolEw1 e s
  | .rolEbCl e => Sys2Proof.Machine.execRolEbCl e s
  | .rolEwCl e => Sys2Proof.Machine.execRolEwCl e s
  | .rorEb1 e => Sys2Proof.Machine.execRorEb1 e s
  | .rorEw1 e => Sys2Proof.Machine.execRorEw1 e s
  | .rorEbCl e => Sys2Proof.Machine.execRorEbCl e s
  | .rorEwCl e => Sys2Proof.Machine.execRorEwCl e s
  | .rclEb1 e => Sys2Proof.Machine.execRclEb1 e s
  | .rclEw1 e => Sys2Proof.Machine.execRclEw1 e s
  | .rclEbCl e => Sys2Proof.Machine.execRclEbCl e s
  | .rclEwCl e => Sys2Proof.Machine.execRclEwCl e s
  | .rcrEb1 e => Sys2Proof.Machine.execRcrEb1 e s
  | .rcrEw1 e => Sys2Proof.Machine.execRcrEw1 e s
  | .rcrEbCl e => Sys2Proof.Machine.execRcrEbCl e s
  | .rcrEwCl e => Sys2Proof.Machine.execRcrEwCl e s
  | .shlEb1 e => Sys2Proof.Machine.execShlEb1 e s
  | .shlEw1 e => Sys2Proof.Machine.execShlEw1 e s
  | .shlEbCl e => Sys2Proof.Machine.execShlEbCl e s
  | .shlEwCl e => Sys2Proof.Machine.execShlEwCl e s
  | .shrEb1 e => Sys2Proof.Machine.execShrEb1 e s
  | .shrEw1 e => Sys2Proof.Machine.execShrEw1 e s
  | .shrEbCl e => Sys2Proof.Machine.execShrEbCl e s
  | .shrEwCl e => Sys2Proof.Machine.execShrEwCl e s
  | .sarEb1 e => Sys2Proof.Machine.execSarEb1 e s
  | .sarEw1 e => Sys2Proof.Machine.execSarEw1 e s
  | .sarEbCl e => Sys2Proof.Machine.execSarEbCl e s
  | .sarEwCl e => Sys2Proof.Machine.execSarEwCl e s
  | .loopnzJb d => Sys2Proof.Machine.execLoopnzJb d s
  | .loopzJb d => Sys2Proof.Machine.execLoopzJb d s
  | .loopJb d => Sys2Proof.Machine.execLoopJb d s
  | .jcxzJb d => Sys2Proof.Machine.execJcxzJb d s
  | .inAlIb port => Sys2Proof.Machine.execInAlIb port s
  | .inAxIb port => Sys2Proof.Machine.execInAxIb port s
  | .outIbAl port => Sys2Proof.Machine.execOutIbAl port s
  | .outIbAx port => Sys2Proof.Machine.execOutIbAx port s
  | .callJw d => Sys2Proof.Machine.execCallJw d s
  | .jmpJw d => Sys2Proof.Machine.execJmpJw d s
  | .jmpAp off seg => Sys2Proof.Machine.execJmpAp off seg s
  | .jmpJb d => Sys2Proof.Machine.execJmpJb d s
  | .inAlDx => Sys2Proof.Machine.execInAlDx s
  | .inAxDx => Sys2Proof.Machine.execInAxDx s
  | .outDxAl => Sys2Proof.Machine.execOutDxAl s
  | .outDxAx => Sys2Proof.Machine.execOutDxAx s
  | .hlt => Sys2Proof.Machine.execHlt s
  | .cmc => Sys2Proof.Machine.execCmc s
  | .testEbIb e imm => Sys2Proof.Machine.execTestEbIb e imm s
  | .notEb e => Sys2Proof.Machine.execNotEb e s
  | .negEb e => Sys2Proof.Machine.execNegEb e s
  | .testEwIw e imm => Sys2Proof.Machine.execTestEwIw e imm s
  | .notEw e => Sys2Proof.Machine.execNotEw e s
  | .negEw e => Sys2Proof.Machine.execNegEw e s
  | .clc => Sys2Proof.Machine.execClc s
  | .stc => Sys2Proof.Machine.execStc s
  | .cli => Sys2Proof.Machine.execCli s
  | .sti => Sys2Proof.Machine.execSti s
  | .cld => Sys2Proof.Machine.execCld s
  | .std => Sys2Proof.Machine.execStd s
  | .incEb e => Sys2Proof.Machine.execIncEb e s
  | .decEb e => Sys2Proof.Machine.execDecEb e s
  | .incEw e => Sys2Proof.Machine.execIncEw e s
  | .decEw e => Sys2Proof.Machine.execDecEw e s
  | .callEw e => Sys2Proof.Machine.execCallEw e s
  | .jmpEw e => Sys2Proof.Machine.execJmpEw e s
  | .pushEw e => Sys2Proof.Machine.execPushEw e s

end Sys2Proof.Machine
end

