-- ==== Sys2Proof/Machine/Fetch.lean ====
section
/-! DEFINITION. Fetching an instruction's bytes and the bookkeeping of one execute cycle
(30_encoding.md R131 to R134). -/

namespace Sys2Proof.Machine

/-- The byte k places after the prefixes read so far, in the code segment; offsets wrap modulo 2^16
(30_encoding.md R131, R134). -/
def State.fetchByte (s : State) (k : Nat) : Byte :=
  s.readMem8 s.regs.cs (s.regs.ip + s.prefixLen + BitVec.ofNat 16 k)

/-- The bytes at CS:off, as many as the longest admitted instruction has (30_encoding.md R172).
Memory reads have no side effects (20_memory.md R94), so reading more than the instruction's own is
not observable (log entry 11). -/
def State.fetchBytes (s : State) : List Byte :=
  [s.fetchByte 0, s.fetchByte 1, s.fetchByte 2, s.fetchByte 3, s.fetchByte 4, s.fetchByte 5]

/-- The prefix bytes that this cycle has read, from CS:IP on. No state is written while they are read,
so they stand in memory as they were read (30_encoding.md R131). -/
def State.prefixBytes (s : State) : List Byte :=
  (List.range s.prefixLen.toNat).map fun k =>
    s.readMem8 s.regs.cs (s.regs.ip + BitVec.ofNat 16 k)

/-- The start and the end of a cycle: no override, no prefix read (30_encoding.md R131,
`off <- IP ; seg_ovr <- NONE`). -/
def State.idleCycle (s : State) : State := { s with segOvr := none, prefixLen := 0#16 }

/-- The trace record of a decoded instruction (30_encoding.md R132). -/
def State.trace (s : State) (i : Instr) : State := s.appendLog (.trace s.segOvr i)

end Sys2Proof.Machine
end

