-- ==== Sys2Proof/Machine/Execute.lean ====
section
/-! DEFINITION. `execute()` (30_encoding.md R130, R131) and the host's calls (60_exceptions.md
R420, R540). -/

namespace Sys2Proof.Machine

/-- Perform a decoded instruction that no parameter removes: trace, perform, and close the cycle
(30_encoding.md R131). -/
def perform (i : Instr) (s : State) : Result :=
  match exec i (s.trace i) with
  | .next t => .next t.idleCycle
  | .fault f => .fault f
  | .refused r => .refused r

/-- The execute cycle (30_encoding.md R131). Each round reads one prefix, until an instruction or a
fault ends it. The fuel counts the offsets of the code segment: when all 65536 hold prefixes the
loop of R131 never ends (log entry 10). -/
def runCycle : Nat → State → Result
  | 0, _ => .fault .endlessPrefixes
  | fuel + 1, s =>
    match decode s.fetchBytes with
    | .error .truncated => .refused .truncatedFetch
    | .error (.fault f) => .next (s.idleCycle.emulationFault f)
    | .ok (i, _) =>
      if isPrefixByte (s.fetchByte 0) then
        match exec i s with
        | .next t => runCycle fuel t
        | .fault f => .fault f
        | .refused r => .refused r
      else
        match parameterFault s.cfg s.prefixBytes s.fetchBytes with
        | some f => .next (s.idleCycle.emulationFault f)
        | none => perform i s

/-- `execute()`: one instruction or one emulation fault; no step after a fault (30_encoding.md
R131, 60_exceptions.md R400, R403). -/
def execute (s : State) : Result :=
  if s.faultStatus then .fault .executeAfterFault else runCycle 65536 s.idleCycle

/-- `deliverInterrupt()` (60_exceptions.md R420). -/
def State.deliverInterrupt (s : State) : State :=
  if s.faultStatus then s
  else if !s.flag .ifl then s
  else if !s.pic.intr then s
  else
    match s.pic.acknowledge with
    | (some v, p) => State.interrupt { s with pic := p } v s.regs.ip
    | (none, _) => s

/-- `setGate(level)` on channel 0 or 1 (60_exceptions.md R540, R507). -/
def State.hostGate (s : State) (g : HostGate) (level : Nat) : State :=
  match g with
  | .gate0 => { s with pit := s.pit.set .c0 (s.pit.ch0.setGate level) }
  | .gate1 => { s with pit := s.pit.set .c1 (s.pit.ch1.setGate level) }

/-- `acknowledgeInterrupt()` called by the host: the request is consumed without CPU entry, and the
host gets a vector or none (60_exceptions.md R540, R476). -/
def State.hostAcknowledge (s : State) : State :=
  { s with pic := s.pic.acknowledge.2, hostReply := s.pic.acknowledge.1 }

/-- One call of the host (60_exceptions.md R540). -/
def hostCall (c : HostCall) (s : State) : Result :=
  match c with
  | .execute => execute s
  | .tick => .next { s with pit := s.pit.tick }
  | .deliverInterrupt => .next s.deliverInterrupt
  | .setInterrupt irq => .next { s with pic := s.pic.setInterrupt irq }
  | .acknowledgeInterrupt => .next s.hostAcknowledge
  | .setGate g level => .next (s.hostGate g level)

end Sys2Proof.Machine
end

