-- ==== Sys2Proof/Machine/Step.lean ====
section
/-! DEFINITION. One step of the machine, and the state whose next step runs a given instruction. -/

namespace Sys2Proof.Machine

/-- One step: the next call of the host's schedule, or `execute()` when none is pending
(60_exceptions.md R540, log entry 12). -/
def step (s : State) : Host.Outcome State Fault Refusal :=
  match s.schedule with
  | [] => execute s
  | c :: rest => hostCall c { s with schedule := rest }

/-- The state with the instruction of the table's word `w` placed at CS:IP, no host call pending
and no fault status, so that the next step executes it: the load of a program from outside
(log entries 3 and 16). -/
def State.withFetchWord (s : State) (nbits w : Nat) : State :=
  { s.place s.regs.cs s.regs.ip (tableBytes nbits w) with schedule := [], faultStatus := false }

end Sys2Proof.Machine
end

