-- ==== Sys2Proof/Rows.lean ====
section
/-! DEFINITION. The rows of the opcode table by family: the constructor of Instr for each operation,
register or condition (30_encoding.md R160, R161, R180, R182). The statements name instructions
through these functions. -/

namespace Sys2Proof.Row

open Sys2Proof.Machine

/-! ## The nine forms of the eight ALU operations (41_arithmetic_logic.md R255) -/

/-- The number k of an operation (41_arithmetic_logic.md R255). -/
def aluNumber : AluOp → Nat
  | .add => 0 | .or => 1 | .adc => 2 | .sbb => 3 | .and => 4 | .sub => 5 | .xor => 6 | .cmp => 7

/-- Form 8k+0. -/
def aluEbGb : AluOp → Ea8 → Reg8 → Instr
  | .add => .addEbGb
  | .or => .orEbGb
  | .adc => .adcEbGb
  | .sbb => .sbbEbGb
  | .and => .andEbGb
  | .sub => .subEbGb
  | .xor => .xorEbGb
  | .cmp => .cmpEbGb

/-- Form 8k+1. -/
def aluEwGw : AluOp → Ea16 → Reg16 → Instr
  | .add => .addEwGw
  | .or => .orEwGw
  | .adc => .adcEwGw
  | .sbb => .sbbEwGw
  | .and => .andEwGw
  | .sub => .subEwGw
  | .xor => .xorEwGw
  | .cmp => .cmpEwGw

/-- Form 8k+2. -/
def aluGbEb : AluOp → Reg8 → Ea8 → Instr
  | .add => .addGbEb
  | .or => .orGbEb
  | .adc => .adcGbEb
  | .sbb => .sbbGbEb
  | .and => .andGbEb
  | .sub => .subGbEb
  | .xor => .xorGbEb
  | .cmp => .cmpGbEb

/-- Form 8k+3. -/
def aluGwEw : AluOp → Reg16 → Ea16 → Instr
  | .add => .addGwEw
  | .or => .orGwEw
  | .adc => .adcGwEw
  | .sbb => .sbbGwEw
  | .and => .andGwEw
  | .sub => .subGwEw
  | .xor => .xorGwEw
  | .cmp => .cmpGwEw

/-- Form 8k+4. -/
def aluAlIb : AluOp → Byte → Instr
  | .add => .addAlIb
  | .or => .orAlIb
  | .adc => .adcAlIb
  | .sbb => .sbbAlIb
  | .and => .andAlIb
  | .sub => .subAlIb
  | .xor => .xorAlIb
  | .cmp => .cmpAlIb

/-- Form 8k+5. -/
def aluAxIw : AluOp → Word → Instr
  | .add => .addAxIw
  | .or => .orAxIw
  | .adc => .adcAxIw
  | .sbb => .sbbAxIw
  | .and => .andAxIw
  | .sub => .subAxIw
  | .xor => .xorAxIw
  | .cmp => .cmpAxIw

/-- Form 80 /k. -/
def aluEbIb : AluOp → Ea8 → Byte → Instr
  | .add => .addEbIb
  | .or => .orEbIb
  | .adc => .adcEbIb
  | .sbb => .sbbEbIb
  | .and => .andEbIb
  | .sub => .subEbIb
  | .xor => .xorEbIb
  | .cmp => .cmpEbIb

/-- Form 81 /k. -/
def aluEwIw : AluOp → Ea16 → Word → Instr
  | .add => .addEwIw
  | .or => .orEwIw
  | .adc => .adcEwIw
  | .sbb => .sbbEwIw
  | .and => .andEwIw
  | .sub => .subEwIw
  | .xor => .xorEwIw
  | .cmp => .cmpEwIw

/-- Form 83 /k. -/
def aluEwIbs : AluOp → Ea16 → Byte → Instr
  | .add => .addEwIbs
  | .or => .orEwIbs
  | .adc => .adcEwIbs
  | .sbb => .sbbEwIbs
  | .and => .andEwIbs
  | .sub => .subEwIbs
  | .xor => .xorEwIbs
  | .cmp => .cmpEwIbs

/-! ## The shift group (42_shift_rotate.md R300) -/

/-- The extension n of an operation (42_shift_rotate.md R300). -/
def shiftNumber : ShiftOp → BitVec 3
  | .rol => 0 | .ror => 1 | .rcl => 2 | .rcr => 3 | .shl => 4 | .shr => 5 | .sar => 7

/-- Row D0 /n. -/
def shiftEb1 : ShiftOp → Ea8 → Instr
  | .rol => .rolEb1
  | .ror => .rorEb1
  | .rcl => .rclEb1
  | .rcr => .rcrEb1
  | .shl => .shlEb1
  | .shr => .shrEb1
  | .sar => .sarEb1

/-- Row D1 /n. -/
def shiftEw1 : ShiftOp → Ea16 → Instr
  | .rol => .rolEw1
  | .ror => .rorEw1
  | .rcl => .rclEw1
  | .rcr => .rcrEw1
  | .shl => .shlEw1
  | .shr => .shrEw1
  | .sar => .sarEw1

/-- Row D2 /n. -/
def shiftEbCl : ShiftOp → Ea8 → Instr
  | .rol => .rolEbCl
  | .ror => .rorEbCl
  | .rcl => .rclEbCl
  | .rcr => .rcrEbCl
  | .shl => .shlEbCl
  | .shr => .shrEbCl
  | .sar => .sarEbCl

/-- Row D3 /n. -/
def shiftEwCl : ShiftOp → Ea16 → Instr
  | .rol => .rolEwCl
  | .ror => .rorEwCl
  | .rcl => .rclEwCl
  | .rcr => .rcrEwCl
  | .shl => .shlEwCl
  | .shr => .shrEwCl
  | .sar => .sarEwCl

/-! ## The register in the opcode (30_encoding.md R160) -/

/-- INC r16 (40+r). -/
def incR16 : Reg16 → Instr
  | .ax => .incAx
  | .cx => .incCx
  | .dx => .incDx
  | .bx => .incBx
  | .sp => .incSp
  | .bp => .incBp
  | .si => .incSi
  | .di => .incDi

/-- DEC r16 (48+r). -/
def decR16 : Reg16 → Instr
  | .ax => .decAx
  | .cx => .decCx
  | .dx => .decDx
  | .bx => .decBx
  | .sp => .decSp
  | .bp => .decBp
  | .si => .decSi
  | .di => .decDi

/-- PUSH r16 (50+r). -/
def pushR16 : Reg16 → Instr
  | .ax => .pushAx
  | .cx => .pushCx
  | .dx => .pushDx
  | .bx => .pushBx
  | .sp => .pushSp
  | .bp => .pushBp
  | .si => .pushSi
  | .di => .pushDi

/-- POP r16 (58+r). -/
def popR16 : Reg16 → Instr
  | .ax => .popAx
  | .cx => .popCx
  | .dx => .popDx
  | .bx => .popBx
  | .sp => .popSp
  | .bp => .popBp
  | .si => .popSi
  | .di => .popDi

/-- MOV r8,Ib (B0+r). -/
def movR8Ib : Reg8 → Byte → Instr
  | .al => .movAlIb
  | .cl => .movClIb
  | .dl => .movDlIb
  | .bl => .movBlIb
  | .ah => .movAhIb
  | .ch => .movChIb
  | .dh => .movDhIb
  | .bh => .movBhIb

/-- MOV r16,Iw (B8+r). -/
def movR16Iw : Reg16 → Word → Instr
  | .ax => .movAxIw
  | .cx => .movCxIw
  | .dx => .movDxIw
  | .bx => .movBxIw
  | .sp => .movSpIw
  | .bp => .movBpIw
  | .si => .movSiIw
  | .di => .movDiIw

/-! ## Segment registers (30_encoding.md R161, R140) -/

/-- PUSH of a segment register. -/
def pushSeg : SReg → Instr
  | .es => .pushEs
  | .cs => .pushCs
  | .ss => .pushSs
  | .ds => .pushDs

/-- POP of a segment register; there is no POP CS. -/
def popSeg : SReg → Option Instr
  | .es => some .popEs
  | .cs => none
  | .ss => some .popSs
  | .ds => some .popDs

/-- The segment-override prefixes. -/
def segPrefix : SReg → Instr
  | .es => .esPrefix
  | .cs => .csPrefix
  | .ss => .ssPrefix
  | .ds => .dsPrefix

/-- The byte of a segment-override prefix. -/
def segPrefixByte : SReg → Byte
  | .es => 0x26#8
  | .cs => 0x2E#8
  | .ss => 0x36#8
  | .ds => 0x3E#8

/-! ## The conditional jumps (43_control_transfer.md R342) -/

/-- The sixteen conditions of R342's table, in its order. -/
inductive Cond | o | no | b | nb | z | nz | be | a | s | ns | p | np | l | ge | le | g
deriving DecidableEq, Repr

/-- The condition code c. -/
def Cond.code : Cond → Nat
  | .o => 0 | .no => 1 | .b => 2 | .nb => 3 | .z => 4 | .nz => 5 | .be => 6 | .a => 7
  | .s => 8 | .ns => 9 | .p => 10 | .np => 11 | .l => 12 | .ge => 13 | .le => 14 | .g => 15

/-- The condition on the flags, from R342's table. -/
def Cond.holds (c : Cond) (f : Flag → Bool) : Prop :=
  match c with
  | .o => f .ofl = true
  | .no => f .ofl = false
  | .b => f .cf = true
  | .nb => f .cf = false
  | .z => f .zf = true
  | .nz => f .zf = false
  | .be => f .cf = true ∨ f .zf = true
  | .a => f .cf = false ∧ f .zf = false
  | .s => f .sf = true
  | .ns => f .sf = false
  | .p => f .pf = true
  | .np => f .pf = false
  | .l => f .sf ≠ f .ofl
  | .ge => f .sf = f .ofl
  | .le => f .zf = true ∨ f .sf ≠ f .ofl
  | .g => f .zf = false ∧ f .sf = f .ofl

/-- The conditional jump (70+c). -/
def jump : Cond → Byte → Instr
  | .o => .joJb
  | .no => .jnoJb
  | .b => .jbJb
  | .nb => .jnbJb
  | .z => .jzJb
  | .nz => .jnzJb
  | .be => .jbeJb
  | .a => .jaJb
  | .s => .jsJb
  | .ns => .jnsJb
  | .p => .jpJb
  | .np => .jnpJb
  | .l => .jlJb
  | .ge => .jgeJb
  | .le => .jleJb
  | .g => .jgJb

end Sys2Proof.Row
end

