-- ==== Sys2Proof/Safety.lean ====
section
/-! DEFINITION. How a run ends (60_exceptions.md R541) and the invariant of the machine's states. -/

namespace Sys2Proof.Machine

/-- A run is finished: no fault, the instruction at CS:IP is HLT with no prefix before it, and
IF = 0 (60_exceptions.md R541). -/
def Finished (s : State) : Prop :=
  s.faultStatus = false ∧ s.readMem8 s.regs.cs s.regs.ip = 0xF4#8 ∧ s.flag .ifl = false

/-- A run has faulted (60_exceptions.md R541). -/
def Faulted (s : State) : Prop := s.faultStatus = true

/-- No override and no prefix pending: the state between two instructions (30_encoding.md R131). -/
def CycleIdle (s : State) : Prop := s.segOvr = none ∧ s.prefixLen = 0

/-- FLAGS shows bits 3 and 5 clear and the always-set bits set (10_state.md R36, R40). -/
def FlagsReserved (s : State) : Prop :=
  s.regs.flags &&& flagsAlwaysClear = 0 ∧
    s.regs.flags &&& s.cfg.flagsAlwaysSet = s.cfg.flagsAlwaysSet

/-- The controller's vector base has its low three bits clear (10_state.md R48), and at most one
interrupt is in service (60_exceptions.md R476: a request is selected only while ISR is 0). -/
def PicOk (p : Pic) : Prop :=
  p.vectorBase &&& 0x07#8 = 0 ∧ (p.isr = 0 ∨ ∃ i : Fin 8, p.isr = 1#8 <<< i.val)

/-- The hidden flags of a channel hold only where 10_state.md R44 gives them a meaning: the byte
toggles in LOHI, the pending load, the pending trigger, the half-cycle flag and the strobe flag in
the modes that use them, and a count write is incomplete exactly between its two bytes. -/
def ChannelOk (c : Channel) : Prop :=
  (c.writeHigh = true → c.access = .lohi) ∧ (c.readHigh = true → c.access = .lohi) ∧
  c.writeIncomplete = c.writeHigh ∧
  (c.loadPending = true → c.mode.writeLoads = true) ∧
  (c.triggerPending = true → c.mode.edgeTriggers = true) ∧
  (c.halfFirst = true → c.mode = .m3) ∧
  (c.strobeArmed = true → c.mode.strobes = true)

/-- The three channels. -/
def PitOk (p : Pit) : Prop := ChannelOk p.ch0 ∧ ChannelOk p.ch1 ∧ ChannelOk p.ch2

/-- The part of the invariant that the instruction rules rest on: the mask sets reserved bits only,
memory is in its canonical form, FLAGS shows its reserved bits as the spec says. -/
def CpuOk (s : State) : Prop := s.cfg.wf = true ∧ s.mem.wf = true ∧ FlagsReserved s

/-- What holds whether or not a prefix is pending. -/
def Sound (s : State) : Prop := CpuOk s ∧ PicOk s.pic ∧ PitOk s.pit

/-- The invariant of the states between two steps. -/
def Inv (s : State) : Prop := Sound s ∧ CycleIdle s

end Sys2Proof.Machine
end

