-- ==== Sys2Proof/View.lean ====
section
/-! DEFINITION. What a state shows, and the effects of the instruction rules on it. Registers,
flags and memory are functions here, and the results and flags are given by arithmetic, so that a
statement written in these words does not repeat the definitions of the machine. -/

namespace Sys2Proof.Machine

/-- Everything that the rules of the instruction files read or write: the registers by code, IP,
the flags, the byte at each linear address, the timer and the interrupt controller. -/
structure View where
  gen : Reg16 → Word
  seg : SReg → Word
  ip : Word
  flag : Flag → Bool
  mem : Nat → Byte
  pit : Pit
  pic : Pic

/-- What a state shows. -/
def State.view (s : State) : View where
  gen := s.regs.r16
  seg := s.regs.sreg
  ip := s.regs.ip
  flag := fun f => getFlag f s.regs.flags
  mem := s.memRead
  pit := s.pit
  pic := s.pic

/-! ## Reads and writes (00_scope.md R14, R15; 10_state.md R31; 20_memory.md R89) -/

namespace View

/-- `r16[i] <- v`. -/
def setGen (v : View) (r : Reg16) (w : Word) : View :=
  { v with gen := fun q => if q = r then w else v.gen q }

/-- `sreg[i] <- v`. -/
def setSeg (v : View) (r : SReg) (w : Word) : View :=
  { v with seg := fun q => if q = r then w else v.seg q }

/-- `r8[i]` (10_state.md R31). -/
def byte (v : View) (r : Reg8) : Byte :=
  if r.isHigh then (v.gen r.parent).extractLsb' 8 8 else (v.gen r.parent).extractLsb' 0 8

/-- `r8[i] <- b`, the other half kept (10_state.md R31). -/
def setByte (v : View) (r : Reg8) (b : Byte) : View :=
  v.setGen r.parent
    (if r.isHigh then b ++ (v.gen r.parent).extractLsb' 0 8
     else (v.gen r.parent).extractLsb' 8 8 ++ b)

/-- `ReadMem(seg, off, 8)`. -/
def load8 (c : Config) (v : View) (seg off : Word) : Byte := v.mem (linear c seg off)

/-- `ReadMem(seg, off, 16)`: the byte at `off` is the low half. -/
def load16 (c : Config) (v : View) (seg off : Word) : Word :=
  v.load8 c seg (off + 1#16) ++ v.load8 c seg off

/-- `WriteMem(seg, off, 8, b)`: every other byte is kept, and so is this one where a store has no
effect (20_memory.md R88, R90). -/
def store8 (c : Config) (v : View) (seg off : Word) (b : Byte) : View :=
  { v with
    mem := fun a => if a = linear c seg off ∧ writable c a = true then b else v.mem a }

/-- `WriteMem(seg, off, 16, w)`: low byte first. -/
def store16 (c : Config) (v : View) (seg off w : Word) : View :=
  (v.store8 c seg off (w.extractLsb' 0 8)).store8 c seg (off + 1#16) (w.extractLsb' 8 8)

/-- `readE(8)` at an operand located at decode (30_encoding.md R155). -/
def get8 (c : Config) (v : View) : Loc8 → Byte
  | .reg r => v.byte r
  | .mem seg off => v.load8 c seg off

/-- `readE(16)`. -/
def get16 (c : Config) (v : View) : Loc16 → Word
  | .reg r => v.gen r
  | .mem seg off => v.load16 c seg off

/-- `writeE(8, b)`. -/
def put8 (c : Config) (v : View) (l : Loc8) (b : Byte) : View :=
  match l with
  | .reg r => v.setByte r b
  | .mem seg off => v.store8 c seg off b

/-- `writeE(16, w)`. -/
def put16 (c : Config) (v : View) (l : Loc16) (w : Word) : View :=
  match l with
  | .reg r => v.setGen r w
  | .mem seg off => v.store16 c seg off w

/-- The flags for which `f` gives a value take it; the others are kept (10_state.md R39). -/
def setFlags (v : View) (f : Flag → Option Bool) : View :=
  { v with flag := fun g => (f g).getD (v.flag g) }

/-- One flag takes a value. -/
def setFlag (v : View) (f : Flag) (b : Bool) : View :=
  { v with flag := fun g => if g = f then b else v.flag g }

/-- Every flag takes its bit of a word: a whole write of FLAGS (10_state.md R35, R40). -/
def setFlagWord (v : View) (w : Word) : View := { v with flag := fun g => w.getLsbD g.pos }

/-- `push(w)` (40_data_transfer.md R210). -/
def push (c : Config) (v : View) (w : Word) : View :=
  (v.setGen .sp (v.gen .sp - 2#16)).store16 c (v.seg .ss) (v.gen .sp - 2#16) w

/-- The word `pop()` returns (40_data_transfer.md R210). -/
def top (c : Config) (v : View) : Word := v.load16 c (v.seg .ss) (v.gen .sp)

/-- `pop()`'s effect (40_data_transfer.md R210). -/
def drop (v : View) : View := v.setGen .sp (v.gen .sp + 2#16)

/-- `interrupt(n, ret)` with the FLAGS word before entry (60_exceptions.md R410). -/
def enter (c : Config) (v : View) (flags : Word) (n : Byte) (ret : Word) : View :=
  let u := (((((v.push c flags).setFlag .ifl false).setFlag .tf false).push c (v.seg .cs)).push c
    ret)
  let at4n : Word := BitVec.ofNat 16 (4 * n.toNat)
  { u.setSeg .cs (u.load16 c 0#16 (at4n + 2#16)) with ip := u.load16 c 0#16 at4n }

end View

/-! ## Results and flags by arithmetic (41_arithmetic_logic.md R250 to R263) -/

/-- An even number of ones in the low byte (R251). -/
def evenOnes {w : Nat} (r : BitVec w) : Bool :=
  ((List.range 8).filter fun k => r.getLsbD k).length % 2 == 0

/-- SF, ZF and PF of a result (R250). -/
def resultFlag {w : Nat} (r : BitVec w) : Flag → Option Bool
  | .sf => some (decide (2 ^ (w - 1) ≤ r.toNat))
  | .zf => some (decide (r.toNat = 0))
  | .pf => some (evenOnes r)
  | .cf | .af | .tf | .ifl | .df | .ofl => none

/-- The flags of the sum `r` of a, b and a carry (R252): the carry out of the top bit, the carry
out of bit 3, and OF "iff a and b have the same sign and r has the other". -/
def addFlag {w : Nat} (a b : BitVec w) (c : Bool) (r : BitVec w) : Flag → Option Bool
  | .cf => some (decide (2 ^ w ≤ a.toNat + b.toNat + c.toNat))
  | .af => some (decide (16 ≤ a.toNat % 16 + b.toNat % 16 + c.toNat))
  | .ofl => some (a.msb == b.msb && r.msb != a.msb)
  | f => resultFlag r f

/-- The flags of the difference `r` of a, b and a borrow (R253): the borrow out of the top bit, the
borrow from bit 4 into bit 3, and OF "iff a and b have different signs and r's sign differs from
a's". -/
def subFlag {w : Nat} (a b : BitVec w) (c : Bool) (r : BitVec w) : Flag → Option Bool
  | .cf => some (decide (a.toNat < b.toNat + c.toNat))
  | .af => some (decide (a.toNat % 16 < b.toNat % 16 + c.toNat))
  | .ofl => some (a.msb != b.msb && r.msb != a.msb)
  | f => resultFlag r f

/-- The flags of a logical operation (R254). -/
def logicFlag {w : Nat} (r : BitVec w) : Flag → Option Bool
  | .cf => some false
  | .ofl => some false
  | f => resultFlag r f

/-- The value of an ALU operation (R256 to R263); CMP computes SUB's and does not write it. -/
def aluValue {w : Nat} (k : AluOp) (a b : BitVec w) (cf : Bool) : BitVec w :=
  match k with
  | .add => a + b
  | .or => a ||| b
  | .adc => a + b + BitVec.ofNat w cf.toNat
  | .sbb => a - b - BitVec.ofNat w cf.toNat
  | .and => a &&& b
  | .sub => a - b
  | .xor => a ^^^ b
  | .cmp => a - b

/-- The flags an ALU operation writes (R256 to R263). -/
def aluFlag {w : Nat} (k : AluOp) (a b : BitVec w) (cf : Bool) : Flag → Option Bool :=
  match k with
  | .add => addFlag a b false (aluValue .add a b cf)
  | .or => logicFlag (aluValue .or a b cf)
  | .adc => addFlag a b cf (aluValue .adc a b cf)
  | .sbb => subFlag a b cf (aluValue .sbb a b cf)
  | .and => logicFlag (aluValue .and a b cf)
  | .sub => subFlag a b false (aluValue .sub a b cf)
  | .xor => logicFlag (aluValue .xor a b cf)
  | .cmp => subFlag a b false (aluValue .cmp a b cf)

/-- The flags with CF left out, for INC and DEC (R265, R266). -/
def keepCarry (f : Flag → Option Bool) : Flag → Option Bool
  | .cf => none
  | g => f g

/-- A byte ALU operation on a and b with destination `dst`: CMP writes only flags (R255). -/
def View.alu8 (c : Config) (v : View) (k : AluOp) (dst : Loc8) (a b : Byte) : View :=
  let u := if k = .cmp then v else v.put8 c dst (aluValue k a b (v.flag .cf))
  u.setFlags (aluFlag k a b (v.flag .cf))

/-- A word ALU operation (R255). -/
def View.alu16 (c : Config) (v : View) (k : AluOp) (dst : Loc16) (a b : Word) : View :=
  let u := if k = .cmp then v else v.put16 c dst (aluValue k a b (v.flag .cf))
  u.setFlags (aluFlag k a b (v.flag .cf))

/-! ## Shifts and rotates (42_shift_rotate.md) -/

/-- One one-bit step on the value and CF (R302 to R308). -/
def oneStep {w : Nat} (k : ShiftOp) (p : BitVec w × Bool) : BitVec w × Bool :=
  match k with
  | .rol => (p.1.rotateLeft 1, p.1.msb)
  | .ror => (p.1.rotateRight 1, p.1.getLsbD 0)
  | .rcl => (p.1 <<< 1 ||| BitVec.ofNat w p.2.toNat, p.1.msb)
  | .rcr => (p.1 >>> 1 ||| BitVec.ofNat w p.2.toNat <<< (w - 1), p.1.getLsbD 0)
  | .shl => (p.1 <<< 1, p.1.msb)
  | .shr => (p.1 >>> 1, p.1.getLsbD 0)
  | .sar => (p.1.sshiftRight 1, p.1.getLsbD 0)

/-- n successive one-bit steps (R301). -/
def manySteps {w : Nat} (k : ShiftOp) (n : Nat) (x : BitVec w) (cf : Bool) : BitVec w × Bool :=
  (oneStep k)^[n] (x, cf)

/-- OF after a count of 1, from the operand, the result and the new CF (R302 to R308). -/
def overflowAfterOne {w : Nat} (k : ShiftOp) (x r : BitVec w) (cf : Bool) : Bool :=
  match k with
  | .rol | .rcl | .shl => r.msb ^^ cf
  | .ror | .rcr => r.msb ^^ r.getLsbD (w - 2)
  | .shr => x.msb
  | .sar => false

/-- The flags of a shift or rotate with the values drawn for OF and AF (R302 to R309). A rotate
writes CF and OF, a shift all six. -/
def shiftFlag {w : Nat} (k : ShiftOp) (r : BitVec w) (cf o a : Bool) : Flag → Option Bool
  | .cf => some cf
  | .ofl => some o
  | .af => if k.isShift then some a else none
  | f => if k.isShift then resultFlag r f else none

/-! ## What an instruction does -/

/-- What no instruction but a prefix changes beside what it shows: the log, the fault status, the
parameters and the model's own fields. -/
def Keeps (s t : State) : Prop :=
  t.log = s.log ∧ t.faultStatus = s.faultStatus ∧ t.cfg = s.cfg ∧ t.segOvr = s.segOvr ∧
    t.prefixLen = s.prefixLen ∧ t.draws = s.draws ∧ t.schedule = s.schedule ∧
    t.hostReply = s.hostReply

/-- The reserved bits of FLAGS are kept (10_state.md R35, R36). -/
def ReservedKept (s t : State) : Prop :=
  ∀ n, (∀ f : Flag, f.pos ≠ n) → t.regs.flags.getLsbD n = s.regs.flags.getLsbD n

/-- From `s` to `t`: the view becomes `v`, and nothing else changes. -/
def Shows (s t : State) (v : View) : Prop := t.view = v ∧ ReservedKept s t ∧ Keeps s t

/-- `next_ip`: past the prefixes read and the given bytes of the instruction (30_encoding.md R131,
R172). -/
def past (s : State) (bytes : List Byte) : Word :=
  s.regs.ip + s.prefixLen + BitVec.ofNat 16 bytes.length

/-- The instruction is encoded by `bytes`, and executing it completes with the view `v`. -/
def Runs (s : State) (i : Instr) (bytes : List Byte) (v : View) : Prop :=
  encode i = bytes ∧ ∃ t, exec i s = .next t ∧ Shows s t v

/-- The same for an instruction that does not relocate: IP moves past its bytes. -/
def Advances (s : State) (i : Instr) (bytes : List Byte) (v : View) : Prop :=
  Runs s i bytes { v with ip := past s bytes }

/-- The segment of a direct-offset operand: DS, or the override (20_memory.md R82). -/
def dataSegment (s : State) : Word := s.regs.sreg (s.segOvr.getD .ds)

/-- A shift or rotate of a byte operand by n (42_shift_rotate.md R301 to R309): nothing but IP for
n = 0; otherwise the value after n steps is written and the flags follow, where OF after n ≥ 2 and
AF after a shift may be anything. -/
def ShiftsByte (s : State) (i : Instr) (bytes : List Byte) (k : ShiftOp) (n : Nat) (e : Ea8) :
    Prop :=
  if n = 0 then Advances s i bytes s.view
  else
    let x := s.view.get8 s.cfg (s.locate8 e)
    let p := manySteps k n x (s.view.flag .cf)
    encode i = bytes ∧ ∃ (t : State) (o a : Bool), exec i s = .next t ∧
      (n = 1 → o = overflowAfterOne k x p.1 p.2) ∧
      Shows s { t with draws := s.draws }
        { (s.view.put8 s.cfg (s.locate8 e) p.1).setFlags (shiftFlag k p.1 p.2 o a) with
          ip := past s bytes }

/-- A shift or rotate of a word operand by n (42_shift_rotate.md R301 to R309). -/
def ShiftsWord (s : State) (i : Instr) (bytes : List Byte) (k : ShiftOp) (n : Nat) (e : Ea16) :
    Prop :=
  if n = 0 then Advances s i bytes s.view
  else
    let x := s.view.get16 s.cfg (s.locate16 e)
    let p := manySteps k n x (s.view.flag .cf)
    encode i = bytes ∧ ∃ (t : State) (o a : Bool), exec i s = .next t ∧
      (n = 1 → o = overflowAfterOne k x p.1 p.2) ∧
      Shows s { t with draws := s.draws }
        { (s.view.put16 s.cfg (s.locate16 e) p.1).setFlags (shiftFlag k p.1 p.2 o a) with
          ip := past s bytes }

/-! ## An execute cycle (30_encoding.md R131) -/

/-- `ps` are the segment registers of the prefix bytes at CS:IP, up to the first byte that is none;
`u` is the machine that decodes what follows them: the last prefix decides, and they count in
`len`. -/
def AfterPrefixes (s : State) (ps : List SReg) (u : State) : Prop :=
  ps.length < 65536 ∧
    (∀ k (h : k < ps.length),
      s.readMem8 s.regs.cs (s.regs.ip + BitVec.ofNat 16 k) = 0x26#8 ||| ps[k].code3.setWidth 8 <<< 3) ∧
    u = { s with segOvr := ps.getLast?, prefixLen := BitVec.ofNat 16 ps.length } ∧
    u.fetchByte 0 ∉ [0x26#8, 0x2E#8, 0x36#8, 0x3E#8]

end Sys2Proof.Machine
end

