-- ==== Sys2Proof/Certificates/Slice0/Obligations.lean ====
section
/-! DEFINITION. The statements for the provers, each a proposition about the model. Instructions are
named by the functions of Rows, their effects in the words of View. -/

open Sys2Proof Sys2Proof.Machine

/-! ## Reset (10_state.md section 7) -/

/-- 10_state.md R51, R52 and R53: what construction leaves in the register file, the log, the fault
status, the timer and the interrupt controller. -/
def Obligations.ConstructionResetsMachine : Prop :=
  ∀ (c : Config) (init : Regs) (ram bios : List Byte),
    let s := State.construct c init ram bios
    s.regs.cs = c.bootCs ∧ s.regs.ip = c.bootIp ∧ s.regs.flags = c.flagsAlwaysSet ∧
      (∀ r : Reg16, s.regs.r16 r = init.r16 r) ∧
      (∀ r : SReg, r ≠ .cs → s.regs.sreg r = init.sreg r) ∧
      s.log = [] ∧ s.faultStatus = false ∧
      Config.default.bootCs = 0xF000#16 ∧ Config.default.bootIp = 0x0000#16 ∧
      Config.default.flagsAlwaysSet = 0xF002#16 ∧
      (∀ i : ChannelId,
        let ch := s.pit.get i
        ch.mode = .m0 ∧ ch.access = .lohi ∧ ch.out = false ∧ ch.setValue = 0#16 ∧
          ch.counter = 0#16 ∧ ch.latch = 0#16 ∧ ch.latchArmed = false ∧ ch.writeHigh = false ∧
          ch.readHigh = false ∧ ch.writeIncomplete = false ∧ ch.loadPending = false ∧
          ch.triggerPending = false ∧ ch.counting = false ∧ ch.halfFirst = false ∧
          ch.strobeArmed = false ∧ ch.gate = (i != .c2)) ∧
      s.pit.p61 = 0x00#8 ∧
      s.pic.imr = 0x00#8 ∧ s.pic.irr = 0x00#8 ∧ s.pic.isr = 0x00#8 ∧ s.pic.stage = .idle ∧
      s.pic.vectorBase = 0x00#8 ∧ s.pic.cascade = 0x00#8 ∧ s.pic.single = false ∧
      s.pic.needIcw4 = false ∧ s.pic.autoEoi = false ∧ s.pic.buffered = false ∧
      s.pic.nested = false ∧ s.pic.readSelect = .irr

/-- 10_state.md R54 (with 20_memory.md R87): the BIOS region holds `BIOS_IMAGE`, and RAM outside it
holds `INIT_RAM`. -/
def Obligations.ConstructionFillsMemory : Prop :=
  ∀ (c : Config) (init : Regs) (ram bios : List Byte),
    let s := State.construct c init ram bios
    (∀ k (h : k < bios.length), s.memRead (c.biosBase + k) = bios[k]) ∧
      ∀ k (h : k < ram.length), k < c.ramSize → ¬(c.biosBase ≤ k ∧ k < c.biosBase + bios.length) →
        s.memRead k = ram[k]

/-- The invariant holds at reset, whatever well-formed parameters are set (log entry 19: the mask of
always-set bits is one of bits 1 and 12 to 15; the zero registers and memory of log entries 1 and 2
matter to nothing here). -/
def Obligations.ResetMeetsInvariant : Prop :=
  Inv State.reset ∧ ∀ c : Config, c.wf = true → Inv (State.resetWith c)

/-- Every step keeps the invariant: memory in canonical form, FLAGS with its reserved bits as
10_state.md R36 says, the controller with a base multiple of 8 and at most one interrupt in service,
the timer's hidden flags only where 10_state.md R44 gives them a meaning, and no override pending
between two instructions. The invariant is the model's own, read from those rules (log entries 9, 18
and 19). -/
def Obligations.StepKeepsInvariant : Prop :=
  ∀ s t : State, Inv s → step s = .next t → Inv t

/-! ## Registers and flags (10_state.md sections 1 and 2) -/

/-- 10_state.md R40: the write rule, of the whole word and of one flag, and what a read shows after
any write. The parameters' mask sets only bits that 10_state.md R35 lists as always set. -/
def Obligations.FlagsWriteRule : Prop :=
  ∀ (s : State) (v : Word) (f : Flag) (b : Bool), s.cfg.wf = true →
    (s.setFlags v).regs.flags = (v &&& ~~~0x0028#16) ||| s.cfg.flagsAlwaysSet ∧
      (s.setFlag f b).regs.flags =
        (((s.regs.flags &&& ~~~BitVec.twoPow 16 f.pos) ||| (BitVec.ofNat 16 b.toNat <<< f.pos))
          &&& ~~~0x0028#16) ||| s.cfg.flagsAlwaysSet ∧
      (∀ n, s.cfg.flagsAlwaysSet.getLsbD n = true →
        (s.setFlags v).regs.flags.getLsbD n = true ∧
          (s.setFlag f b).regs.flags.getLsbD n = true) ∧
      (∀ n, n = 3 ∨ n = 5 →
        (s.setFlags v).regs.flags.getLsbD n = false ∧
          (s.setFlag f b).regs.flags.getLsbD n = false) ∧
      ∀ g : Flag, (s.setFlag f b).flag g = if g = f then b else s.flag g

/-- 10_state.md R31: the 8-bit register of code i is the low half of register i for i < 4, the high
half of register i - 4 otherwise; a write changes that half only. -/
def Obligations.ByteRegistersAreHalves : Prop :=
  ∀ (g : Regs) (i : BitVec 3) (v : Byte),
    let r : Reg16 := .ofCode (if i.toNat < 4 then i else i - 4#3)
    let lo := (g.r16 r).extractLsb' 0 8
    let hi := (g.r16 r).extractLsb' 8 8
    g.r8 (.ofCode i) = (if i.toNat < 4 then lo else hi) ∧
      ∀ q : Slot, (g.setR8 (.ofCode i) v).slot q =
        if q = .gen r then (if i.toNat < 4 then hi ++ v else v ++ lo) else g.slot q

/-! ## Memory (20_memory.md sections 1 to 3) -/

/-- 20_memory.md R84, R86, R88 and R90: linear addresses, a byte read and a byte write of each region
and of an unmapped address, and the host's word accesses. Where the two regions share an address the
BIOS region, added last (R87), decides. The unmapped byte is a free value (log entry 5). -/
def Obligations.MemoryByteAccess : Prop :=
  (∀ (c : Config) (seg off : Word),
    (c.a20Wrap = true → linear c seg off = (seg.toNat * 16 + off.toNat) % 2 ^ 20) ∧
      (c.a20Wrap = false → linear c seg off = seg.toNat * 16 + off.toNat) ∧
      linear c seg off ≤ 0x10FFEF) ∧
  ∀ (s : State) (a : Nat) (v : Byte), s.mem.wf = true →
    let inBios := s.cfg.biosBase ≤ a ∧ a < s.cfg.biosBase + s.cfg.biosSize
    let inRam := a < s.cfg.ramSize
    let t := s.memWrite a v
    t.regs = s.regs ∧ Keeps s t ∧ t.pit = s.pit ∧ t.pic = s.pic ∧ t.mem.wf = true ∧
      (∀ b, b ≠ a → t.memRead b = s.memRead b) ∧
      (¬inBios → ¬inRam → s.memRead a = Config.unmappedRead ∧ t.memRead a = s.memRead a) ∧
      (inBios → s.cfg.biosWritable = false → t.memRead a = s.memRead a) ∧
      (inBios → s.cfg.biosWritable = true → t.memRead a = v) ∧
      (¬inBios → inRam → t.memRead a = v) ∧
      ∀ w : Word,
        let a' := if s.cfg.a20Wrap then (a + 1) % 2 ^ 20 else a + 1
        s.memReadWord a = s.memRead a' ++ s.memRead a ∧
          s.memWriteWord a w =
            (s.memWrite a (w.extractLsb' 0 8)).memWrite a' (w.extractLsb' 8 8)

/-- 20_memory.md R89: a word is two byte accesses in one segment, the low byte at the offset, the
high byte at the next offset modulo 2^16. -/
def Obligations.MemoryWordAccess : Prop :=
  ∀ (s : State) (seg off v : Word), s.mem.wf = true →
    let lo := linear s.cfg seg off
    let hi := linear s.cfg seg (BitVec.ofNat 16 (off.toNat + 1))
    let t := s.writeMem16 seg off v
    (s.readMem16 seg off).extractLsb' 0 8 = s.memRead lo ∧
      (s.readMem16 seg off).extractLsb' 8 8 = s.memRead hi ∧
      (∀ a, a ≠ lo → a ≠ hi → t.memRead a = s.memRead a) ∧
      (writable s.cfg lo = true → t.memRead lo = v.extractLsb' 0 8) ∧
      (writable s.cfg hi = true → t.memRead hi = v.extractLsb' 8 8) ∧
      (writable s.cfg lo = true → writable s.cfg hi = true → t.readMem16 seg off = v)

/-! ## Encoding (30_encoding.md) -/

/-- Words of each family written out from the encodings of 30_encoding.md decode to the instructions
they stand for. -/
def Obligations.WrittenWordsDecode : Prop :=
  decode [0xB4, 0x09] = .ok (.movAhIb 0x09, []) ∧
    decode [0xBA, 0x09, 0x01] = .ok (.movDxIw 0x0109, []) ∧
    decode [0xCD, 0x21] = .ok (.intIb 0x21, []) ∧
    decode [0x83, 0xC0, 0xFF] = .ok (.addEwIbs (.reg .ax) 0xFF, []) ∧
    decode [0x8A, 0x40, 0x05] = .ok (.movGbEb .al (.mem (.based .bxsi (.d8 0x05))), []) ∧
    decode [0x8C, 0xD8] = .ok (.movEwSw (.reg .ax) .ds, []) ∧
    decode [0xC7, 0x07, 0x34, 0x12] = .ok (.movEwIw (.mem (.based .bx .none)) 0x1234, []) ∧
    decode [0xD2, 0xE0] = .ok (.shlEbCl (.reg .al), []) ∧
    decode [0x9A, 0x34, 0x12, 0x00, 0x20] = .ok (.callAp 0x1234 0x2000, []) ∧
    decode [0x26] = .ok (.esPrefix, [])

/-- 30_encoding.md R186: decoding the encoding of any well-formed instruction gives it back, with
every operand, whatever bytes follow. -/
def Obligations.DecodeOfEncode : Prop :=
  ∀ (i : Instr) (rest : List Byte), i.wf = true → decode (encode i ++ rest) = .ok (i, rest)

/-- 30_encoding.md R184: what the decoder reads is exactly one row with its operands: the bytes it
consumed are that instruction's encoding, and the instruction is well-formed. -/
def Obligations.EncodeOfDecode : Prop :=
  ∀ (bytes : List Byte) (i : Instr) (rest : List Byte),
    decode bytes = .ok (i, rest) → i.wf = true ∧ encode i ++ rest = bytes

/-- 30_encoding.md R172 and R184: the decoder is total and six bytes are enough for every
instruction: it reads a row of one to six bytes or raises one fault of the spec. -/
def Obligations.SixBytesDecode : Prop :=
  ∀ bytes : List Byte, bytes.length = 6 →
    (∃ i rest, decode bytes = .ok (i, rest) ∧ 1 ≤ i.len ∧ i.len ≤ 6 ∧ rest.length = 6 - i.len) ∨
      ∃ f, decode bytes = .error (.fault f) ∧ (f.number = 1 ∨ f.number = 2 ∨ f.number = 3)

/-- 30_encoding.md R181 and R142: the opcodes that are not admitted, and no others, are unknown; and
R182: the extensions of a group opcode that are not admitted, and no others, are unknown. -/
def Obligations.DecoderRefusals : Prop :=
  (∀ (op : Byte) (rest : List Byte),
    decode (op :: rest) = .error (.fault (.unknownOpcode op)) ↔
      op.toNat ∈ [0x0F, 0x27, 0x2F, 0x37, 0x3F, 0x82, 0x86, 0x87, 0x8D, 0x98, 0x99, 0x9B, 0x9E,
          0x9F, 0xC0, 0xC1, 0xC4, 0xC5, 0xC8, 0xC9, 0xF0, 0xF1, 0xF2, 0xF3] ∨
        (0x60 ≤ op.toNat ∧ op.toNat ≤ 0x6F) ∨ (0x91 ≤ op.toNat ∧ op.toNat ≤ 0x97) ∨
        (0xA4 ≤ op.toNat ∧ op.toNat ≤ 0xA7) ∨ (0xAA ≤ op.toNat ∧ op.toNat ≤ 0xAF) ∨
        (0xD4 ≤ op.toNat ∧ op.toNat ≤ 0xDF)) ∧
  ∀ (op m : Byte) (rest : List Byte),
    decode (op :: m :: rest) = .error (.fault (.unknownExtension op (regField m))) ↔
      (op.toNat ∈ [0xD0, 0xD1, 0xD2, 0xD3] ∧ regField m = 6#3) ∨
        (op.toNat ∈ [0xF6, 0xF7] ∧ (regField m).toNat ∈ [1, 4, 5, 6, 7]) ∨
        (op.toNat = 0xFE ∧ (regField m).toNat ∈ [2, 3, 4, 5, 6, 7]) ∨
        (op.toNat = 0xFF ∧ (regField m).toNat ∈ [3, 5, 7]) ∨
        (op.toNat ∈ [0x8F, 0xC6, 0xC7] ∧ regField m ≠ 0#3)

/-- 30_encoding.md R183 and 00_scope.md R10: a memory form that its row does not implement faults;
otherwise the first prefix byte, and then the row, taken out of `IMPLEMENTED` faults; and nothing
else does. The row of an opcode with a ModRM byte `m` is named with its extension if the opcode is a
group's. What the fault records, and which of several removed rows, is the model's choice (log
entries 14 and 15). -/
def Obligations.ParametersRemoveRows : Prop :=
  ∀ (c : Config) (prefixes : List Byte) (i : Instr) (rest : List Byte), i.wf = true →
    let bytes := encode i ++ rest
    let op := bytes.headD 0
    let m := bytes.tail.headD 0
    let row : RowId := ⟨op, if isGroup op then some (regField m) else none⟩
    let memoryRemoved := (hasModrm op = true ∧ modField m ≠ 3#2) ∧ row ∈ c.regOnlyRows
    let removedPrefix (b : Byte) : Prop := (⟨b, none⟩ : RowId) ∈ c.removedRows
    let answer := parameterFault c prefixes bytes
    (memoryRemoved → answer = some (.unimplementedAddressing op (regField m))) ∧
      (¬memoryRemoved →
        (∀ front b back, prefixes = front ++ b :: back → (∀ x ∈ front, ¬removedPrefix x) →
          removedPrefix b → answer = some (.notImplemented b none)) ∧
        ((∀ b ∈ prefixes, ¬removedPrefix b) →
          (row ∈ c.removedRows →
            answer = some (.notImplemented op (if hasModrm op then some (regField m) else none))) ∧
          (row ∉ c.removedRows → answer = none)))

/-- 30_encoding.md R150, R151 and R153: what the mod and rm fields select: the register rm, or the
effective address from the base and index and the displacement bytes that follow. -/
def Obligations.EffectiveAddresses : Prop :=
  (∀ (m : Byte) (rest : List Byte), modField m = 3#2 →
    readRm m rest = some (.reg (rmField m), rest)) ∧
  ∀ (s : State) (m d0 d1 : Byte) (rest : List Byte), modField m ≠ 3#2 →
    let bx := (s.r16 .bx).toNat
    let bp := (s.r16 .bp).toNat
    let si := (s.r16 .si).toNat
    let di := (s.r16 .di).toNat
    let md := (modField m).toNat
    let rm := (rmField m).toNat
    let base := match rm with
      | 0 => bx + si | 1 => bx + di | 2 => bp + si | 3 => bp + di
      | 4 => si | 5 => di | 6 => bp | _ => bx
    let d8 := if d0.toNat < 0x80 then d0.toNat else 0xFF00 + d0.toNat
    let d16 := d0.toNat + 0x100 * d1.toNat
    ∃ (a : MemOp) (left : List Byte), readRm m (d0 :: d1 :: rest) = some (.mem a, left) ∧
      (md = 0 → rm = 6 → (s.effAddr a).toNat = d16 ∧ left = rest) ∧
      (md = 0 → rm ≠ 6 → (s.effAddr a).toNat = base % 0x10000 ∧ left = d0 :: d1 :: rest) ∧
      (md = 1 → (s.effAddr a).toNat = (base + d8) % 0x10000 ∧ left = d1 :: rest) ∧
      (md = 2 → (s.effAddr a).toNat = (base + d16) % 0x10000 ∧ left = rest)

/-- 20_memory.md R82: the segment of a memory operand. -/
def Obligations.OperandSegments : Prop :=
  ∀ (s : State) (m : MemOp),
    (∀ r, s.segOvr = some r → s.memSegment m = s.regs.sreg r ∧ s.offsetSegment = s.regs.sreg r) ∧
      (s.segOvr = none → s.offsetSegment = s.regs.ds ∧
        (s.cfg.bpUsesSs = false → s.memSegment m = s.regs.ds) ∧
        (s.cfg.bpUsesSs = true → s.memSegment m =
          match m with
          | .direct _ => s.regs.ds
          | .based b _ => if b = .bpsi ∨ b = .bpdi ∨ b = .bp then s.regs.ss else s.regs.ds))

/-! ## The execute cycle (30_encoding.md R131) -/

/-- A step at bytes that decode to an instruction with no prefix before it is that instruction's
meaning, with its trace record before and no override after. The record's form is the model's
(log entry 14), and so are the fields that hold the override (log entry 9). -/
def Obligations.StepRunsDecodedInstruction : Prop :=
  ∀ (s : State) (i : Instr) (rest : List Byte),
    s.schedule = [] → s.faultStatus = false → CycleIdle s →
    isPrefixByte (s.fetchByte 0) = false → decode s.fetchBytes = .ok (i, rest) →
    parameterFault s.cfg [] s.fetchBytes = none →
    ∃ t, exec i { s with log := s.log ++ [.trace none i] } = .next t ∧
      step s = .next { t with segOvr := none, prefixLen := 0#16 }

/-- 30_encoding.md R131, R140 and R141: any number of segment prefixes before an instruction; the last
one decides the override under which it runs, and all of them count in its length. The override and
the length are fields of the model (log entry 9), the record's form is its choice (log entry 14). -/
def Obligations.LastPrefixDecides : Prop :=
  ∀ (s u : State) (ps : List SReg) (i : Instr) (rest : List Byte),
    s.schedule = [] → s.faultStatus = false → AfterPrefixes s ps u →
    decode u.fetchBytes = .ok (i, rest) →
    parameterFault s.cfg (ps.map Row.segPrefixByte) u.fetchBytes = none →
    ∃ t, exec i { u with log := u.log ++ [.trace ps.getLast? i] } = .next t ∧
      step s = .next { t with segOvr := none, prefixLen := 0#16 }

/-- 30_encoding.md R140: a prefix byte alone sets the override and counts one byte; nothing else
changes. That a prefix is an instruction of its own here is the model's choice (log entry 9). -/
def Obligations.PrefixRows : Prop :=
  ∀ (s : State) (r : SReg),
    encode (Row.segPrefix r) = [0x26#8 ||| r.code3.setWidth 8 <<< 3] ∧
      exec (Row.segPrefix r) s =
        .next { s with segOvr := some r, prefixLen := s.prefixLen + 1#16 }

/-- 60_exceptions.md R400: a step at bytes that decode to a fault, or to a row that the parameters take
out or that follows a prefix whose row they take out (00_scope.md R10), appends one fault entry with the reason and the CS:IP of the instruction's first byte (the
first prefix, if any), sets the fault status and changes nothing else; and no later call of the host
clears the status. The entry's form is the model's (log entry 14), and so is that a fault is a next
state (log entry 17). -/
def Obligations.EmulationFaultTaken : Prop :=
  (∀ (s u : State) (ps : List SReg) (f : EmulationFault),
    s.schedule = [] → s.faultStatus = false → CycleIdle s → AfterPrefixes s ps u →
    (decode u.fetchBytes = .error (.fault f) ∨
      ∃ i rest, decode u.fetchBytes = .ok (i, rest) ∧
        parameterFault s.cfg (ps.map Row.segPrefixByte) u.fetchBytes = some f) →
    step s = .next { s with
      log := s.log ++ [.fault f s.regs.cs s.regs.ip], faultStatus := true }) ∧
  ∀ (s t : State) (c : HostCall), s.faultStatus = true → hostCall c s = .next t →
    t.faultStatus = true

/-- 60_exceptions.md R403: after a fault `execute()` has no step; the timer and the controller keep
their operations. The stop's name and the place of the host's answer are the model's (log entries 13
and 17). -/
def Obligations.StuckAfterFault : Prop :=
  ∀ s : State, s.faultStatus = true →
    execute s = .fault .executeAfterFault ∧ (s.schedule = [] → step s = .fault .executeAfterFault) ∧
      hostCall .deliverInterrupt s = .next s ∧
      hostCall .tick s = .next { s with pit := s.pit.tick } ∧
      (∀ irq, hostCall (.setInterrupt irq) s = .next { s with pic := s.pic.setInterrupt irq }) ∧
      hostCall .acknowledgeInterrupt s =
        .next { s with pic := s.pic.acknowledge.2, hostReply := s.pic.acknowledge.1 } ∧
      (∀ l, hostCall (.setGate .gate0 l) s =
        .next { s with pit := { s.pit with ch0 := s.pit.ch0.setGate l } }) ∧
      ∀ l, hostCall (.setGate .gate1 l) s =
        .next { s with pit := { s.pit with ch1 := s.pit.ch1.setGate l } }

/-- 60_exceptions.md R402, 10_state.md R33 and R37: every instruction completes, and what each leaves
alone: the log, the fault status, the parameters; the timer and the controller unless it is IN or
OUT; CS unless it is a far transfer, an interrupt or IRET; TF, IF and DF unless it is POPF, IRET, an
interrupt or the flag's own instruction. -/
def Obligations.EveryInstructionFrame : Prop :=
  ∀ (i : Instr) (s : State), i.wf = true → s.cfg.wf = true →
    ∃ t, exec i s = .next t ∧
      t.log = s.log ∧ t.faultStatus = s.faultStatus ∧ t.cfg = s.cfg ∧ t.schedule = s.schedule ∧
      t.hostReply = s.hostReply ∧
      (t.pit = s.pit ∨ i ∈ [.inAlDx, .inAxDx, .outDxAl, .outDxAx] ∨
        ∃ p, i ∈ [.inAlIb p, .inAxIb p, .outIbAl p, .outIbAx p]) ∧
      (t.pic = s.pic ∨ i ∈ [.outDxAl, .outDxAx] ∨ ∃ p, i ∈ [.outIbAl p, .outIbAx p]) ∧
      (t.regs.cs = s.regs.cs ∨ i ∈ [.retf, .int3, .into, .iret] ∨
        (∃ a b, i ∈ [.callAp a b, .jmpAp a b]) ∨ (∃ w, i = .retfIw w) ∨ ∃ n, i = .intIb n) ∧
      (t.flag .tf = s.flag .tf ∨ i ∈ [.popf, .iret, .int3, .into] ∨ ∃ n, i = .intIb n) ∧
      (t.flag .ifl = s.flag .ifl ∨ i ∈ [.popf, .iret, .int3, .into, .cli, .sti] ∨
        ∃ n, i = .intIb n) ∧
      (t.flag .df = s.flag .df ∨ i ∈ [.popf, .iret, .cld, .std])

/-- 20_memory.md R88 and R90 over a whole step: no step changes what a byte that cannot be written
reads as, whether it executes an instruction or answers the host. -/
def Obligations.UnwritableBytesNeverChange : Prop :=
  ∀ (s t : State) (a : Nat), step s = .next t → writable s.cfg a = false →
    t.memRead a = s.memRead a

/-! ## Data transfer (40_data_transfer.md) -/

/-- R200: MOV between a general register and a register or memory operand. -/
def Obligations.MovRegisterOrMemory : Prop :=
  ∀ s : State, CpuOk s →
    (∀ (e : Ea8) (g : Reg8),
      Advances s (.movEbGb e g) (0x88#8 :: e.bytes g.code)
        (s.view.put8 s.cfg (s.locate8 e) (s.view.byte g)) ∧
      Advances s (.movGbEb g e) (0x8A#8 :: e.bytes g.code)
        (s.view.setByte g (s.view.get8 s.cfg (s.locate8 e)))) ∧
    ∀ (e : Ea16) (g : Reg16),
      Advances s (.movEwGw e g) (0x89#8 :: e.bytes g.code)
        (s.view.put16 s.cfg (s.locate16 e) (s.view.gen g)) ∧
      Advances s (.movGwEw g e) (0x8B#8 :: e.bytes g.code)
        (s.view.setGen g (s.view.get16 s.cfg (s.locate16 e)))

/-- R201 and R202 with 30_encoding.md R162: MOV from and to a segment register, and the segment codes
that are refused. -/
def Obligations.MovSegmentRegister : Prop :=
  (∀ s : State, CpuOk s → ∀ (e : Ea16) (r : SReg),
    Advances s (.movEwSw e r) (0x8C#8 :: e.bytes r.code3)
      (s.view.put16 s.cfg (s.locate16 e) (s.view.seg r)) ∧
    (r ≠ .cs → Advances s (.movSwEw r e) (0x8E#8 :: e.bytes r.code3)
      (s.view.setSeg r (s.view.get16 s.cfg (s.locate16 e))))) ∧
  ∀ (m : Byte) (rest : List Byte),
    (4 ≤ (regField m).toNat → decode (0x8C#8 :: m :: rest) =
      .error (.fault (.badSegmentRegister 0x8C#8 (regField m)))) ∧
    (regField m = 1#3 ∨ 4 ≤ (regField m).toNat → decode (0x8E#8 :: m :: rest) =
      .error (.fault (.badSegmentRegister 0x8E#8 (regField m)))) ∧
    decode (0x0F#8 :: m :: rest) = .error (.fault (.unknownOpcode 0x0F#8))

/-- R203 and R204: MOV between the accumulator and a direct offset. -/
def Obligations.MovDirectOffset : Prop :=
  ∀ s : State, CpuOk s → ∀ off : Word,
    let field := [off.extractLsb' 0 8, off.extractLsb' 8 8]
    Advances s (.movAlOb off) (0xA0#8 :: field)
      (s.view.setByte .al (s.view.load8 s.cfg (dataSegment s) off)) ∧
    Advances s (.movAxOw off) (0xA1#8 :: field)
      (s.view.setGen .ax (s.view.load16 s.cfg (dataSegment s) off)) ∧
    Advances s (.movObAl off) (0xA2#8 :: field)
      (s.view.store8 s.cfg (dataSegment s) off (s.view.byte .al)) ∧
    Advances s (.movOwAx off) (0xA3#8 :: field)
      (s.view.store16 s.cfg (dataSegment s) off (s.view.gen .ax))

/-- R205, R206 and R207: MOV of an immediate, and the extensions of C6 and C7 that are refused. -/
def Obligations.MovImmediate : Prop :=
  (∀ s : State, CpuOk s →
    (∀ (r : Reg8) (b : Byte),
      Advances s (Row.movR8Ib r b) [BitVec.ofNat 8 (0xB0 + r.code.toNat), b]
        (s.view.setByte r b)) ∧
    (∀ (r : Reg16) (w : Word),
      Advances s (Row.movR16Iw r w)
        [BitVec.ofNat 8 (0xB8 + r.code.toNat), w.extractLsb' 0 8, w.extractLsb' 8 8]
        (s.view.setGen r w)) ∧
    (∀ (e : Ea8) (b : Byte),
      Advances s (.movEbIb e b) (0xC6#8 :: (e.bytes 0#3 ++ [b]))
        (s.view.put8 s.cfg (s.locate8 e) b)) ∧
    ∀ (e : Ea16) (w : Word),
      Advances s (.movEwIw e w)
        (0xC7#8 :: (e.bytes 0#3 ++ [w.extractLsb' 0 8, w.extractLsb' 8 8]))
        (s.view.put16 s.cfg (s.locate16 e) w)) ∧
  ∀ (op m : Byte) (rest : List Byte), op = 0xC6#8 ∨ op = 0xC7#8 → regField m ≠ 0#3 →
    decode (op :: m :: rest) = .error (.fault (.unknownExtension op (regField m)))

/-- R211, R213, R215 and R217: PUSH; PUSH SP in either encoding stores the decremented SP. -/
def Obligations.PushRows : Prop :=
  ∀ s : State, CpuOk s →
    (∀ r : Reg16, Advances s (Row.pushR16 r) [BitVec.ofNat 8 (0x50 + r.code.toNat)]
      (s.view.push s.cfg (if r = .sp then s.view.gen .sp - 2#16 else s.view.gen r))) ∧
    (∀ r : SReg, Advances s (Row.pushSeg r) [BitVec.ofNat 8 (0x06 + 8 * r.code3.toNat)]
      (s.view.push s.cfg (s.view.seg r))) ∧
    (∀ e : Ea16, Advances s (.pushEw e) (0xFF#8 :: e.bytes 6#3)
      (s.view.push s.cfg
        (if e = .reg .sp then s.view.gen .sp - 2#16
         else s.view.get16 s.cfg (s.locate16 e)))) ∧
    Advances s .pushf [0x9C#8] (s.view.push s.cfg s.regs.flags)

/-- R212, R214, R216 and R218: POP; POPF writes FLAGS through the write rule. -/
def Obligations.PopRows : Prop :=
  (∀ s : State, CpuOk s →
    let v := s.view.top s.cfg
    (∀ r : Reg16, Advances s (Row.popR16 r) [BitVec.ofNat 8 (0x58 + r.code.toNat)]
      (s.view.drop.setGen r v)) ∧
    (∀ (r : SReg) (i : Instr), Row.popSeg r = some i →
      Advances s i [BitVec.ofNat 8 (0x07 + 8 * r.code3.toNat)] (s.view.drop.setSeg r v)) ∧
    (∀ e : Ea16, Advances s (.popEw e) (0x8F#8 :: e.bytes 0#3)
      (s.view.drop.put16 s.cfg (s.locate16 e) v)) ∧
    encode .popf = [0x9D#8] ∧
    ∃ t, exec .popf s = .next t ∧
      t.view = { s.view.drop.setFlagWord v with ip := past s [0x9D#8] } ∧
      t.regs.flags = (v &&& ~~~0x0028#16) ||| s.cfg.flagsAlwaysSet ∧ Keeps s t) ∧
  ∀ (m : Byte) (rest : List Byte),
    (regField m ≠ 0#3 → decode (0x8F#8 :: m :: rest) =
      .error (.fault (.unknownExtension 0x8F#8 (regField m)))) ∧
    decode (0x0F#8 :: m :: rest) = .error (.fault (.unknownOpcode 0x0F#8))

/-- R230 and R232: IN from an immediate port and from DX; the word form reads the low byte first. The
state after the port reads shows the same registers and memory. -/
def Obligations.InRows : Prop :=
  ∀ s : State, CpuOk s →
    (∀ (i : Instr) (p : Word) (bytes : List Byte),
      (∃ b, i = .inAlIb b ∧ p = BitVec.ofNat 16 b.toNat ∧ bytes = [0xE4#8, b]) ∨
        (i = .inAlDx ∧ p = s.view.gen .dx ∧ bytes = [0xEC#8]) →
      encode i = bytes ∧ ∃ t, exec i s = .next t ∧
        Shows s t { s.view.setByte .al (s.ioByteRead p).1 with
          ip := past s bytes, pit := (s.ioByteRead p).2.pit }) ∧
    ∀ (i : Instr) (p : Word) (bytes : List Byte),
      (∃ b, i = .inAxIb b ∧ p = BitVec.ofNat 16 b.toNat ∧ bytes = [0xE5#8, b]) ∨
        (i = .inAxDx ∧ p = s.view.gen .dx ∧ bytes = [0xED#8]) →
      let lo := s.ioByteRead p
      let hi := lo.2.ioByteRead (p + 1#16)
      encode i = bytes ∧ ∃ t, exec i s = .next t ∧
        Shows s t { s.view.setGen .ax (hi.1 ++ lo.1) with
          ip := past s bytes, pit := hi.2.pit }

/-- R231 and R233: OUT to an immediate port and to DX; the word form writes the low byte first. -/
def Obligations.OutRows : Prop :=
  ∀ s : State, CpuOk s →
    (∀ (i : Instr) (p : Word) (bytes : List Byte),
      (∃ b, i = .outIbAl b ∧ p = BitVec.ofNat 16 b.toNat ∧ bytes = [0xE6#8, b]) ∨
        (i = .outDxAl ∧ p = s.view.gen .dx ∧ bytes = [0xEE#8]) →
      let u := s.ioByteWrite p (s.view.byte .al)
      encode i = bytes ∧ ∃ t, exec i s = .next t ∧
        Shows s t { s.view with ip := past s bytes, pit := u.pit, pic := u.pic }) ∧
    ∀ (i : Instr) (p : Word) (bytes : List Byte),
      (∃ b, i = .outIbAx b ∧ p = BitVec.ofNat 16 b.toNat ∧ bytes = [0xE7#8, b]) ∨
        (i = .outDxAx ∧ p = s.view.gen .dx ∧ bytes = [0xEF#8]) →
      let u := (s.ioByteWrite p (s.view.byte .al)).ioByteWrite (p + 1#16) (s.view.byte .ah)
      encode i = bytes ∧ ∃ t, exec i s = .next t ∧
        Shows s t { s.view with ip := past s bytes, pit := u.pit, pic := u.pic }

/-- 20_memory.md R101, R102 and R103 with 60_exceptions.md R470, R500 and R530: which port reaches
which register of which chip. -/
def Obligations.PortRouting : Prop :=
  ∀ (s : State) (v : Byte),
    let lowers := s.cfg.mode0WriteLowersOut
    s.ioByteRead 0x20#16 = (if s.pic.readSelect = .irr then s.pic.irr else s.pic.isr, s) ∧
    s.ioByteRead 0x21#16 = (s.pic.imr, s) ∧
    s.ioByteWrite 0x20#16 v = { s with pic := s.pic.writeCommand v } ∧
    s.ioByteWrite 0x21#16 v = { s with pic := s.pic.writeData v } ∧
    s.ioByteRead 0x40#16 =
      (s.pit.ch0.readByte.1, { s with pit := { s.pit with ch0 := s.pit.ch0.readByte.2 } }) ∧
    s.ioByteRead 0x41#16 =
      (s.pit.ch1.readByte.1, { s with pit := { s.pit with ch1 := s.pit.ch1.readByte.2 } }) ∧
    s.ioByteRead 0x42#16 =
      (s.pit.ch2.readByte.1, { s with pit := { s.pit with ch2 := s.pit.ch2.readByte.2 } }) ∧
    s.ioByteRead 0x43#16 = (Config.undefPortRead, s) ∧
    s.ioByteWrite 0x40#16 v =
      { s with pit := { s.pit with ch0 := s.pit.ch0.writeByte lowers v } } ∧
    s.ioByteWrite 0x41#16 v =
      { s with pit := { s.pit with ch1 := s.pit.ch1.writeByte lowers v } } ∧
    s.ioByteWrite 0x42#16 v =
      { s with pit := { s.pit with ch2 := s.pit.ch2.writeByte lowers v } } ∧
    s.ioByteWrite 0x43#16 v = { s with pit := s.pit.controlWord v } ∧
    s.ioByteRead 0x61#16 =
      ((s.pit.p61 &&& ~~~0x20#8) ||| (BitVec.ofNat 8 s.pit.ch2.out.toNat <<< 5), s) ∧
    s.ioByteWrite 0x61#16 v =
      { s with pit := { s.pit with
        p61 := v, ch2 := s.pit.ch2.setGate (v.getLsbD 0).toNat } } ∧
    (∀ p : Word, 0x50 ≤ p.toNat → p.toNat ≤ 0x5F →
      s.ioByteRead p = s.ioByteRead (0x40#16 + (p &&& 3#16)) ∧
        s.ioByteWrite p v = s.ioByteWrite (0x40#16 + (p &&& 3#16)) v) ∧
    ∀ p : Word, p ≠ 0x20#16 → p ≠ 0x21#16 → ¬(0x40 ≤ p.toNat ∧ p.toNat ≤ 0x43) →
      ¬(0x50 ≤ p.toNat ∧ p.toNat ≤ 0x5F) → p ≠ 0x61#16 →
      s.ioByteRead p = (Config.undefPortRead, s) ∧ s.ioByteWrite p v = s

/-! ## Arithmetic and logic (41_arithmetic_logic.md) -/

/-- R255 to R263: the eight operations in their nine forms, with the flags of R250 to R254; opcode 82
is refused. -/
def Obligations.AluForms : Prop :=
  (∀ s : State, CpuOk s → ∀ k : AluOp,
    (∀ (e : Ea8) (g : Reg8),
      let l := s.locate8 e
      Advances s (Row.aluEbGb k e g) (BitVec.ofNat 8 (8 * Row.aluNumber k) :: e.bytes g.code)
        (s.view.alu8 s.cfg k l (s.view.get8 s.cfg l) (s.view.byte g)) ∧
      Advances s (Row.aluGbEb k g e) (BitVec.ofNat 8 (8 * Row.aluNumber k + 2) :: e.bytes g.code)
        (s.view.alu8 s.cfg k (.reg g) (s.view.byte g) (s.view.get8 s.cfg l))) ∧
    (∀ b : Byte, Advances s (Row.aluAlIb k b) [BitVec.ofNat 8 (8 * Row.aluNumber k + 4), b]
      (s.view.alu8 s.cfg k (.reg .al) (s.view.byte .al) b)) ∧
    (∀ (e : Ea8) (b : Byte),
      let l := s.locate8 e
      Advances s (Row.aluEbIb k e b)
        (0x80#8 :: (e.bytes (BitVec.ofNat 3 (Row.aluNumber k)) ++ [b]))
        (s.view.alu8 s.cfg k l (s.view.get8 s.cfg l) b)) ∧
    (∀ (e : Ea16) (g : Reg16),
      let l := s.locate16 e
      Advances s (Row.aluEwGw k e g) (BitVec.ofNat 8 (8 * Row.aluNumber k + 1) :: e.bytes g.code)
        (s.view.alu16 s.cfg k l (s.view.get16 s.cfg l) (s.view.gen g)) ∧
      Advances s (Row.aluGwEw k g e) (BitVec.ofNat 8 (8 * Row.aluNumber k + 3) :: e.bytes g.code)
        (s.view.alu16 s.cfg k (.reg g) (s.view.gen g) (s.view.get16 s.cfg l))) ∧
    (∀ w : Word, Advances s (Row.aluAxIw k w)
      [BitVec.ofNat 8 (8 * Row.aluNumber k + 5), w.extractLsb' 0 8, w.extractLsb' 8 8]
      (s.view.alu16 s.cfg k (.reg .ax) (s.view.gen .ax) w)) ∧
    ∀ (e : Ea16),
      let l := s.locate16 e
      (∀ w : Word, Advances s (Row.aluEwIw k e w)
        (0x81#8 :: (e.bytes (BitVec.ofNat 3 (Row.aluNumber k)) ++
          [w.extractLsb' 0 8, w.extractLsb' 8 8]))
        (s.view.alu16 s.cfg k l (s.view.get16 s.cfg l) w)) ∧
      ∀ b : Byte, Advances s (Row.aluEwIbs k e b)
        (0x83#8 :: (e.bytes (BitVec.ofNat 3 (Row.aluNumber k)) ++ [b]))
        (s.view.alu16 s.cfg k l (s.view.get16 s.cfg l) (b.signExtend 16))) ∧
  ∀ rest : List Byte, decode (0x82#8 :: rest) = .error (.fault (.unknownOpcode 0x82#8))

/-- R264: TEST writes only the flags of the conjunction, and leaves AF; F6 /1 and F7 /1 are refused. -/
def Obligations.TestForms : Prop :=
  (∀ s : State, CpuOk s →
    (∀ (e : Ea8) (g : Reg8), Advances s (.testEbGb e g) (0x84#8 :: e.bytes g.code)
      (s.view.setFlags (logicFlag (s.view.get8 s.cfg (s.locate8 e) &&& s.view.byte g)))) ∧
    (∀ (e : Ea16) (g : Reg16), Advances s (.testEwGw e g) (0x85#8 :: e.bytes g.code)
      (s.view.setFlags (logicFlag (s.view.get16 s.cfg (s.locate16 e) &&& s.view.gen g)))) ∧
    (∀ b : Byte, Advances s (.testAlIb b) [0xA8#8, b]
      (s.view.setFlags (logicFlag (s.view.byte .al &&& b)))) ∧
    (∀ w : Word, Advances s (.testAxIw w) [0xA9#8, w.extractLsb' 0 8, w.extractLsb' 8 8]
      (s.view.setFlags (logicFlag (s.view.gen .ax &&& w)))) ∧
    (∀ (e : Ea8) (b : Byte), Advances s (.testEbIb e b) (0xF6#8 :: (e.bytes 0#3 ++ [b]))
      (s.view.setFlags (logicFlag (s.view.get8 s.cfg (s.locate8 e) &&& b)))) ∧
    ∀ (e : Ea16) (w : Word), Advances s (.testEwIw e w)
      (0xF7#8 :: (e.bytes 0#3 ++ [w.extractLsb' 0 8, w.extractLsb' 8 8]))
      (s.view.setFlags (logicFlag (s.view.get16 s.cfg (s.locate16 e) &&& w)))) ∧
  ∀ (op m : Byte) (rest : List Byte), op = 0xF6#8 ∨ op = 0xF7#8 → regField m = 1#3 →
    decode (op :: m :: rest) = .error (.fault (.unknownExtension op 1#3))

/-- R265 and R266: INC and DEC write the flags of adding and subtracting 1 but leave CF. -/
def Obligations.IncAndDec : Prop :=
  ∀ s : State, CpuOk s →
    (∀ r : Reg16,
      let a := s.view.gen r
      Advances s (Row.incR16 r) [BitVec.ofNat 8 (0x40 + r.code.toNat)]
        ((s.view.setGen r (a + 1#16)).setFlags (keepCarry (addFlag a 1#16 false (a + 1#16)))) ∧
      Advances s (Row.decR16 r) [BitVec.ofNat 8 (0x48 + r.code.toNat)]
        ((s.view.setGen r (a - 1#16)).setFlags (keepCarry (subFlag a 1#16 false (a - 1#16))))) ∧
    (∀ e : Ea8,
      let l := s.locate8 e
      let a := s.view.get8 s.cfg l
      Advances s (.incEb e) (0xFE#8 :: e.bytes 0#3)
        ((s.view.put8 s.cfg l (a + 1#8)).setFlags (keepCarry (addFlag a 1#8 false (a + 1#8)))) ∧
      Advances s (.decEb e) (0xFE#8 :: e.bytes 1#3)
        ((s.view.put8 s.cfg l (a - 1#8)).setFlags (keepCarry (subFlag a 1#8 false (a - 1#8))))) ∧
    ∀ e : Ea16,
      let l := s.locate16 e
      let a := s.view.get16 s.cfg l
      Advances s (.incEw e) (0xFF#8 :: e.bytes 0#3)
        ((s.view.put16 s.cfg l (a + 1#16)).setFlags
          (keepCarry (addFlag a 1#16 false (a + 1#16)))) ∧
      Advances s (.decEw e) (0xFF#8 :: e.bytes 1#3)
        ((s.view.put16 s.cfg l (a - 1#16)).setFlags
          (keepCarry (subFlag a 1#16 false (a - 1#16))))

/-- R267 and R268: NEG subtracts the operand from 0, NOT writes no flag. -/
def Obligations.NegAndNot : Prop :=
  ∀ s : State, CpuOk s →
    (∀ e : Ea8,
      let l := s.locate8 e
      let a := s.view.get8 s.cfg l
      Advances s (.negEb e) (0xF6#8 :: e.bytes 3#3)
        ((s.view.put8 s.cfg l (-a)).setFlags (subFlag 0#8 a false (-a))) ∧
      Advances s (.notEb e) (0xF6#8 :: e.bytes 2#3) (s.view.put8 s.cfg l (~~~a))) ∧
    ∀ e : Ea16,
      let l := s.locate16 e
      let a := s.view.get16 s.cfg l
      Advances s (.negEw e) (0xF7#8 :: e.bytes 3#3)
        ((s.view.put16 s.cfg l (-a)).setFlags (subFlag 0#16 a false (-a))) ∧
      Advances s (.notEw e) (0xF7#8 :: e.bytes 2#3) (s.view.put16 s.cfg l (~~~a))

/-- R269: what the flags say of the operands, at either width: after SUB and CMP, equality and the
unsigned and signed orders; after ADD, the carry; after a logical operation and TEST, CF and OF clear
and AF as it was; OF is signed overflow. -/
def Obligations.ComparisonLaws : Prop :=
  ∀ (c : Config) (v : Word) (w : Nat) (a b : BitVec w), c.wf = true → w = 8 ∨ w = 16 →
    let m := c.flagsAlwaysSet
    (∀ k, k = AluOp.sub ∨ k = AluOp.cmp →
      let u := aluFlags m k a b v
      (getFlag .zf u = true ↔ a = b) ∧ (getFlag .cf u = true ↔ a.toNat < b.toNat) ∧
        (getFlag .sf u ≠ getFlag .ofl u ↔ a.toInt < b.toInt) ∧
        (getFlag .ofl u = true ↔
          ¬(-2 ^ (w - 1) ≤ a.toInt - b.toInt ∧ a.toInt - b.toInt < 2 ^ (w - 1)))) ∧
    (getFlag .cf (aluFlags m .add a b v) = true ↔ 2 ^ w ≤ a.toNat + b.toNat) ∧
    (getFlag .ofl (aluFlags m .add a b v) = true ↔
      ¬(-2 ^ (w - 1) ≤ a.toInt + b.toInt ∧ a.toInt + b.toInt < 2 ^ (w - 1))) ∧
    (∀ k, k = AluOp.and ∨ k = AluOp.or ∨ k = AluOp.xor →
      let u := aluFlags m k a b v
      getFlag .cf u = false ∧ getFlag .ofl u = false ∧ getFlag .af u = getFlag .af v) ∧
    aluFlags m .cmp a b v = aluFlags m .sub a b v

/-- R270, the source's property of ADD on every pair of bytes. -/
def Obligations.AddBytesProperty : Prop :=
  ∀ (s : State) (b : Byte), CpuOk s →
    let a := s.r8 .al
    ∃ t, exec (.addAlIb b) s = .next t ∧ t.r8 .al = BitVec.ofNat 8 (a.toNat + b.toNat) ∧
      (t.flag .cf = true ↔ a.toNat + b.toNat > 0xFF) ∧
      (t.flag .zf = true ↔ (a.toNat + b.toNat) % 0x100 = 0) ∧
      (t.flag .pf = true ↔
        ((List.range 8).filter fun k => Nat.testBit (a.toNat + b.toNat) k).length % 2 = 0)

/-! ## Shifts and rotates (42_shift_rotate.md) -/

/-- R300 to R308: the seven operations on byte and word operands, by 1 and by CL taken whole; OF after
a count of 2 or more and AF after a shift may be anything (R309, log entry 7). Extension 6 and the
opcodes C0 and C1 are refused. -/
def Obligations.ShiftForms : Prop :=
  (∀ s : State, CpuOk s → ∀ k : ShiftOp,
    (∀ e : Ea8,
      ShiftsByte s (Row.shiftEb1 k e) (0xD0#8 :: e.bytes (Row.shiftNumber k)) k 1 e ∧
      ShiftsByte s (Row.shiftEbCl k e) (0xD2#8 :: e.bytes (Row.shiftNumber k)) k
        (s.view.byte .cl).toNat e) ∧
    ∀ e : Ea16,
      ShiftsWord s (Row.shiftEw1 k e) (0xD1#8 :: e.bytes (Row.shiftNumber k)) k 1 e ∧
      ShiftsWord s (Row.shiftEwCl k e) (0xD3#8 :: e.bytes (Row.shiftNumber k)) k
        (s.view.byte .cl).toNat e) ∧
  (∀ (op m : Byte) (rest : List Byte), 0xD0 ≤ op.toNat → op.toNat ≤ 0xD3 → regField m = 6#3 →
    decode (op :: m :: rest) = .error (.fault (.unknownExtension op 6#3))) ∧
  ∀ (op : Byte) (rest : List Byte), op = 0xC0#8 ∨ op = 0xC1#8 →
    decode (op :: rest) = .error (.fault (.unknownOpcode op))

/-- n one-bit steps of the machine's shift are the shift or rotation by n as a whole: rotations
modulo the width, shifts that leave nothing from the width on, and through-carry rotations that
return after w + 1 steps (the corner cases of R302 to R308). -/
def Obligations.ShiftsByCount : Prop :=
  ∀ (w n : Nat) (x : BitVec w) (cf : Bool), w = 8 ∨ w = 16 →
    (shiftSteps .rol n x cf).1 = x.rotateLeft n ∧
      (shiftSteps .ror n x cf).1 = x.rotateRight n ∧
      (shiftSteps .shl n x cf).1 = x <<< n ∧ (shiftSteps .shr n x cf).1 = x >>> n ∧
      (shiftSteps .sar n x cf).1 = x.sshiftRight n ∧
      shiftSteps .rcl (w + 1) x cf = (x, cf) ∧ shiftSteps .rcr (w + 1) x cf = (x, cf) ∧
      (0 < n → (shiftSteps .rol n x cf).2 = (x.rotateLeft n).getLsbD 0 ∧
        (shiftSteps .ror n x cf).2 = (x.rotateRight n).msb ∧
        (shiftSteps .shl n x cf).2 = (decide (n ≤ w) && x.getLsbD (w - n)) ∧
        (shiftSteps .shr n x cf).2 = x.getLsbD (n - 1) ∧
        (shiftSteps .sar n x cf).2 = (x.sshiftRight (n - 1)).getLsbD 0)

/-! ## Control transfer (43_control_transfer.md) -/

/-- R331 to R337: jumps and calls; the far indirect forms FF /3 and FF /5 are refused. -/
def Obligations.JumpsAndCalls : Prop :=
  (∀ s : State, CpuOk s →
    (∀ d : Byte, Runs s (.jmpJb d) [0xEB#8, d]
      { s.view with ip := past s [0xEB#8, d] + d.signExtend 16 }) ∧
    (∀ d : Word,
      let field := [d.extractLsb' 0 8, d.extractLsb' 8 8]
      Runs s (.jmpJw d) (0xE9#8 :: field)
        { s.view with ip := past s (0xE9#8 :: field) + d } ∧
      Runs s (.callJw d) (0xE8#8 :: field)
        { s.view.push s.cfg (past s (0xE8#8 :: field)) with
          ip := past s (0xE8#8 :: field) + d }) ∧
    (∀ off seg : Word,
      let field := [off.extractLsb' 0 8, off.extractLsb' 8 8, seg.extractLsb' 0 8,
        seg.extractLsb' 8 8]
      Runs s (.jmpAp off seg) (0xEA#8 :: field) { s.view.setSeg .cs seg with ip := off } ∧
      Runs s (.callAp off seg) (0x9A#8 :: field)
        { ((s.view.push s.cfg (s.view.seg .cs)).push s.cfg (past s (0x9A#8 :: field))).setSeg .cs
            seg with
          ip := off }) ∧
    ∀ e : Ea16,
      let target := s.view.get16 s.cfg (s.locate16 e)
      Runs s (.jmpEw e) (0xFF#8 :: e.bytes 4#3) { s.view with ip := target } ∧
      Runs s (.callEw e) (0xFF#8 :: e.bytes 2#3)
        { s.view.push s.cfg (past s (0xFF#8 :: e.bytes 2#3)) with ip := target }) ∧
  ∀ (m : Byte) (rest : List Byte), regField m = 3#3 ∨ regField m = 5#3 →
    decode (0xFF#8 :: m :: rest) = .error (.fault (.unknownExtension 0xFF#8 (regField m)))

/-- R338 to R341: returns, near and far, with and without stack release. -/
def Obligations.Returns : Prop :=
  ∀ s : State, CpuOk s →
    let near := s.view.top s.cfg
    let far := s.view.drop.top s.cfg
    Runs s .ret [0xC3#8] { s.view.drop with ip := near } ∧
    Runs s .retf [0xCB#8] { s.view.drop.drop.setSeg .cs far with ip := near } ∧
    ∀ w : Word,
      let field := [w.extractLsb' 0 8, w.extractLsb' 8 8]
      Runs s (.retIw w) (0xC2#8 :: field)
        { s.view.setGen .sp (s.view.gen .sp + 2#16 + w) with ip := near } ∧
      Runs s (.retfIw w) (0xCA#8 :: field)
        { (s.view.setGen .sp (s.view.gen .sp + 4#16 + w)).setSeg .cs far with ip := near }

/-- A RET after a CALL, and a RETF after a far CALL, come back to the next instruction with the
registers there were, where the stack can be written and the called code changed nothing (R335, R336,
R338, R340). -/
def Obligations.ReturnsUndoCalls : Prop :=
  ∀ s : State, CpuOk s →
    (∀ k : Nat, k < 4 →
      writable s.cfg (linear s.cfg s.regs.ss (s.regs.sp - BitVec.ofNat 16 (k + 1))) = true) →
    (∀ d : Word, ∃ t u, exec (.callJw d) s = .next t ∧ exec .ret t = .next u ∧
      u.regs = { s.regs with ip := past s (encode (.callJw d)) }) ∧
    ∀ off seg : Word, ∃ t u, exec (.callAp off seg) s = .next t ∧ exec .retf t = .next u ∧
      u.regs = { s.regs with ip := past s (encode (.callAp off seg)) }

/-- R342 and R343 to R358: the sixteen conditional jumps; the opcode 0F of the 80386 forms is
refused. -/
def Obligations.ConditionalJumps : Prop :=
  (∀ s : State, CpuOk s → ∀ (c : Row.Cond) (d : Byte),
    let bytes := [BitVec.ofNat 8 (0x70 + c.code), d]
    (c.holds s.view.flag →
      Runs s (Row.jump c d) bytes { s.view with ip := past s bytes + d.signExtend 16 }) ∧
      (¬c.holds s.view.flag → Advances s (Row.jump c d) bytes s.view)) ∧
  ∀ rest : List Byte, decode (0x0F#8 :: rest) = .error (.fault (.unknownOpcode 0x0F#8))

/-- A conditional jump after CMP AX,Iw tests what its name says of the operands, as unsigned (JB, JNB,
JBE, JA) and as signed numbers (JL, JGE, JLE, JG), and their equality (JZ, JNZ). A consequence of
R263 and R342. -/
def Obligations.CompareThenBranch : Prop :=
  ∀ (s : State) (b : Word), CpuOk s →
    let a := s.view.gen .ax
    ∃ t, exec (.cmpAxIw b) s = .next t ∧ t.view.gen = s.view.gen ∧
      ∀ c : Row.Cond, c.holds t.view.flag ↔
        match c with
        | .z => a = b
        | .nz => a ≠ b
        | .b => a.toNat < b.toNat
        | .nb => b.toNat ≤ a.toNat
        | .be => a.toNat ≤ b.toNat
        | .a => b.toNat < a.toNat
        | .l => a.toInt < b.toInt
        | .ge => b.toInt ≤ a.toInt
        | .le => a.toInt ≤ b.toInt
        | .g => b.toInt < a.toInt
        | .s => (a - b).toInt < 0
        | .ns => 0 ≤ (a - b).toInt
        | .o => ¬(-0x8000 ≤ a.toInt - b.toInt ∧ a.toInt - b.toInt < 0x8000)
        | .no => -0x8000 ≤ a.toInt - b.toInt ∧ a.toInt - b.toInt < 0x8000
        | .p => evenOnes (a - b) = true
        | .np => evenOnes (a - b) = false

/-- R360 to R363: LOOPNZ, LOOPZ, LOOP and JCXZ. -/
def Obligations.Loops : Prop :=
  ∀ s : State, CpuOk s → ∀ d : Byte,
    let n := s.view.gen .cx - 1#16
    let v := s.view.setGen .cx n
    (∀ (i : Instr) (op : Byte) (taken : Prop),
      (i = .loopnzJb d ∧ op = 0xE0#8 ∧ (taken ↔ n ≠ 0#16 ∧ s.view.flag .zf = false)) ∨
        (i = .loopzJb d ∧ op = 0xE1#8 ∧ (taken ↔ n ≠ 0#16 ∧ s.view.flag .zf = true)) ∨
        (i = .loopJb d ∧ op = 0xE2#8 ∧ (taken ↔ n ≠ 0#16)) →
      (taken → Runs s i [op, d] { v with ip := past s [op, d] + d.signExtend 16 }) ∧
        (¬taken → Advances s i [op, d] v)) ∧
    (s.view.gen .cx = 0#16 → Runs s (.jcxzJb d) [0xE3#8, d]
      { s.view with ip := past s [0xE3#8, d] + d.signExtend 16 }) ∧
    (s.view.gen .cx ≠ 0#16 → Advances s (.jcxzJb d) [0xE3#8, d] s.view)

/-- R365, R366 and R367 with 60_exceptions.md R410: the software interrupts. -/
def Obligations.SoftwareInterrupts : Prop :=
  ∀ s : State, CpuOk s →
    (∀ n : Byte, Runs s (.intIb n) [0xCD#8, n]
      (s.view.enter s.cfg s.regs.flags n (past s [0xCD#8, n]))) ∧
    Runs s .int3 [0xCC#8] (s.view.enter s.cfg s.regs.flags 3#8 (past s [0xCC#8])) ∧
    (s.view.flag .ofl = true →
      Runs s .into [0xCE#8] (s.view.enter s.cfg s.regs.flags 4#8 (past s [0xCE#8]))) ∧
    (s.view.flag .ofl = false → Advances s .into [0xCE#8] s.view)

/-- R368: IRET. -/
def Obligations.InterruptReturnRow : Prop :=
  ∀ s : State, CpuOk s →
    let ip := s.view.top s.cfg
    let cs := s.view.drop.top s.cfg
    let fl := s.view.drop.drop.top s.cfg
    encode .iret = [0xCF#8] ∧ ∃ t, exec .iret s = .next t ∧
      t.view = { (s.view.drop.drop.drop.setSeg .cs cs).setFlagWord fl with ip := ip } ∧
      t.regs.flags = (fl &&& ~~~0x0028#16) ||| s.cfg.flagsAlwaysSet ∧ Keeps s t

/-- 60_exceptions.md R412 and R413: an interrupt changes SP by 6, CS, IP, IF and TF only; an IRET right
after it restores every register, with IP at the next instruction and FLAGS with IF and TF as before
entry, where the stack can be written. -/
def Obligations.InterruptReturnRestores : Prop :=
  ∀ (s : State) (n : Byte), CpuOk s →
    (∀ k : Nat, k < 6 →
      writable s.cfg (linear s.cfg s.regs.ss (s.regs.sp - BitVec.ofNat 16 (k + 1))) = true) →
    ∃ t u, exec (.intIb n) s = .next t ∧
      (∀ r, t.regs.r16 r = if r = .sp then s.regs.sp - 6#16 else s.regs.r16 r) ∧
      (∀ r, r ≠ .cs → t.regs.sreg r = s.regs.sreg r) ∧
      (∀ f, t.flag f = if f = .ifl ∨ f = .tf then false else s.flag f) ∧
      exec .iret t = .next u ∧ u.regs = { s.regs with ip := past s [0xCD#8, n] }

/-- R369 and 60_exceptions.md R541: HLT leaves IP at itself; a finished machine stays finished: each
further `execute()` changes nothing but the log, and a delivery has no effect. The record in the log
is the model's (log entry 14). -/
def Obligations.HaltStays : Prop :=
  (∀ s : State, Runs s .hlt [0xF4#8] s.view) ∧
  ∀ s : State, Inv s → Finished s → s.schedule = [] → ⟨0xF4#8, none⟩ ∉ s.cfg.removedRows →
    step s = .next { s with log := s.log ++ [.trace none .hlt] } ∧
      Finished { s with log := s.log ++ [.trace none .hlt] } ∧
      hostCall .deliverInterrupt s = .next s

/-! ## Flag control (44_flag_control.md) -/

/-- R380 to R387: each flag instruction changes the flag it names, NOP nothing. -/
def Obligations.FlagInstructions : Prop :=
  ∀ s : State, CpuOk s →
    Advances s .clc [0xF8#8] (s.view.setFlag .cf false) ∧
    Advances s .stc [0xF9#8] (s.view.setFlag .cf true) ∧
    Advances s .cmc [0xF5#8] (s.view.setFlag .cf (!s.view.flag .cf)) ∧
    Advances s .cli [0xFA#8] (s.view.setFlag .ifl false) ∧
    Advances s .sti [0xFB#8] (s.view.setFlag .ifl true) ∧
    Advances s .cld [0xFC#8] (s.view.setFlag .df false) ∧
    Advances s .std [0xFD#8] (s.view.setFlag .df true) ∧
    Advances s .nop [0x90#8] s.view

/-! ## Interrupts, the controller, the timer (60_exceptions.md) -/

/-- R420: a delivery enters the vector that the controller gives, with the current IP as the return
address, when there is no fault, IF is 1 and a request can be acknowledged; otherwise it changes
nothing. -/
def Obligations.InterruptDelivery : Prop :=
  ∀ s : State, CpuOk s →
    (s.faultStatus = false → s.view.flag .ifl = true → ∀ (v : Byte) (p : Pic),
      s.pic.acknowledge = (some v, p) →
      ∃ t, hostCall .deliverInterrupt s = .next t ∧
        Shows s t { s.view.enter s.cfg s.regs.flags v s.regs.ip with pic := p }) ∧
    (s.faultStatus = true ∨ s.view.flag .ifl = false ∨ s.pic.acknowledge.1 = none →
      hostCall .deliverInterrupt s = .next s)

/-- R461 and R464: what each write to the controller's two ports does, by the word's bits and the
stage. -/
def Obligations.ControllerWrites : Prop :=
  ∀ (p : Pic) (v : Byte),
    (v.getLsbD 4 = true → p.writeCommand v =
      { p with
        single := v.getLsbD 1, needIcw4 := v.getLsbD 0, autoEoi := false, buffered := false,
        nested := false, imr := 0x00#8, readSelect := .irr, stage := .expectIcw2 }) ∧
    (v.getLsbD 4 = false → v.getLsbD 3 = false → p.writeCommand v =
      if v.getLsbD 5 then { p with isr := 0x00#8 } else p) ∧
    (v.getLsbD 4 = false → v.getLsbD 3 = true → p.writeCommand v =
      if v.getLsbD 1 then { p with readSelect := if v.getLsbD 0 then .isr else .irr } else p) ∧
    (p.stage = .expectIcw2 → p.writeData v =
      { p with
        vectorBase := v &&& 0xF8#8
        stage := if p.single then (if p.needIcw4 then .expectIcw4 else .done)
          else .expectIcw3 }) ∧
    (p.stage = .expectIcw3 → p.writeData v =
      { p with cascade := v, stage := if p.needIcw4 then .expectIcw4 else .done }) ∧
    (p.stage = .expectIcw4 → p.writeData v =
      { p with
        autoEoi := v.getLsbD 1, buffered := v.getLsbD 3, nested := v.getLsbD 4, stage := .done }) ∧
    (p.stage = .idle ∨ p.stage = .done → p.writeData v = { p with imr := v })

/-- R462: the initialisation sequence takes two to four words by SNGL and IC4 of ICW1, and the next data
write after it is the mask; requests and in-service bits stay. -/
def Obligations.InitialisationSequence : Prop :=
  ∀ (p : Pic) (w1 w2 w3 w4 w5 : Byte), w1.getLsbD 4 = true →
    let a := p.writeCommand w1
    let b := a.writeData w2
    let c := b.writeData w3
    let d := c.writeData w4
    let e := d.writeData w5
    a.stage = .expectIcw2 ∧ b.vectorBase = w2 &&& 0xF8#8 ∧ e.irr = p.irr ∧ e.isr = p.isr ∧
      (w1.getLsbD 1 = true → w1.getLsbD 0 = false → b.stage = .done ∧ b.imr = 0x00#8 ∧
        c = { b with imr := w3 }) ∧
      (w1.getLsbD 1 = true → w1.getLsbD 0 = true → b.stage = .expectIcw4 ∧ c.stage = .done ∧
        c.autoEoi = w3.getLsbD 1 ∧ d = { c with imr := w4 }) ∧
      (w1.getLsbD 1 = false → w1.getLsbD 0 = false → b.stage = .expectIcw3 ∧ c.stage = .done ∧
        c.cascade = w3 ∧ d = { c with imr := w4 }) ∧
      (w1.getLsbD 1 = false → w1.getLsbD 0 = true → b.stage = .expectIcw3 ∧
        c.stage = .expectIcw4 ∧ c.cascade = w3 ∧ d.stage = .done ∧ e = { d with imr := w5 })

/-- R475, R476 and R477: raising a request, and acknowledging the lowest-numbered pending unmasked
one. -/
def Obligations.RequestsAndAcknowledge : Prop :=
  (∀ (p : Pic) (irq : Nat),
    (∀ n, (p.setInterrupt irq).irr.getLsbD n =
      (p.irr.getLsbD n || (decide (n = irq ∧ irq < 8) && !p.imr.getLsbD irq))) ∧
      { p.setInterrupt irq with irr := p.irr } = p) ∧
  (∀ (p : Pic) (i : Nat), i < 8 → p.isr = 0x00#8 →
    p.irr.getLsbD i = true → p.imr.getLsbD i = false →
    (∀ j, j < i → p.irr.getLsbD j = true → p.imr.getLsbD j = true) →
    ∃ q, p.acknowledge = (some (p.vectorBase ||| BitVec.ofNat 8 i), q) ∧
      (PicOk p → p.vectorBase ||| BitVec.ofNat 8 i = p.vectorBase + BitVec.ofNat 8 i) ∧
      (∀ n, q.irr.getLsbD n = (p.irr.getLsbD n && decide (n ≠ i))) ∧
      (∀ n, q.isr.getLsbD n = decide (n = i)) ∧
      { q with irr := p.irr, isr := p.isr } = p) ∧
  ∀ p : Pic, (p.isr ≠ 0x00#8 ∨ ∀ j, j < 8 → p.irr.getLsbD j = true → p.imr.getLsbD j = true) →
    p.acknowledge = (none, p)

/-- R501, R502, R503 and R506: the control word. -/
def Obligations.ControlWords : Prop :=
  ∀ (p : Pit) (v : Byte),
    (v.extractLsb' 6 2 = 3#2 → p.controlWord v = p) ∧
    ∀ i : ChannelId,
      v.extractLsb' 6 2 = (match i with | .c0 => 0#2 | .c1 => 1#2 | .c2 => 2#2) →
      let ch := p.get i
      let t := p.controlWord v
      (∀ j, j ≠ i → t.get j = p.get j) ∧ t.p61 = p.p61 ∧
      (v.extractLsb' 4 2 = 0#2 →
        t.get i = if ch.latchArmed then ch
          else { ch with latch := ch.counter, latchArmed := true }) ∧
      ∀ (a : AccessMode) (m : TimerMode),
        v.extractLsb' 4 2 = (match a with | .lo => 1#2 | .hi => 2#2 | .lohi => 3#2) →
        (match m with
          | .m0 => v.extractLsb' 1 3 = 0#3
          | .m1 => v.extractLsb' 1 3 = 1#3
          | .m2 => v.extractLsb' 1 3 = 2#3 ∨ v.extractLsb' 1 3 = 6#3
          | .m3 => v.extractLsb' 1 3 = 3#3 ∨ v.extractLsb' 1 3 = 7#3
          | .m4 => v.extractLsb' 1 3 = 4#3
          | .m5 => v.extractLsb' 1 3 = 5#3) →
        t.get i =
          { mode := m, access := a, gate := ch.gate, out := m != .m0, setValue := ch.setValue,
            counter := ch.counter, latch := ch.latch, latchArmed := false, writeHigh := false,
            readHigh := false, writeIncomplete := false, loadPending := false,
            triggerPending := false, counting := false, halfFirst := false, strobeArmed := false }

/-- R504, R505, R506 and R510: a count written in a channel's access order enters the counter on the
next tick in modes 0, 2, 3 and 4, whatever the gate; and a count latched is read back in that order,
whatever ticks come between. -/
def Obligations.CountsWrittenAndRead : Prop :=
  (∀ (lowers : Bool) (ch : Channel) (lo hi : Byte),
    ch.mode ≠ .m1 → ch.mode ≠ .m5 → ch.writeHigh = false → ch.writeIncomplete = false →
    (ch.access = .lo → (ch.writeByte lowers lo).tick.counter = 0#8 ++ lo) ∧
    (ch.access = .hi → (ch.writeByte lowers hi).tick.counter = hi ++ 0#8) ∧
    (ch.access = .lohi →
      (ch.writeByte lowers lo).tick.counter = ch.counter ∧
        ((ch.writeByte lowers lo).writeByte lowers hi).tick.counter = hi ++ lo ∧
        ((ch.writeByte lowers lo).writeByte lowers hi).tick.counting = true)) ∧
  ∀ (ch : Channel) (n m : Nat), ch.latchArmed = false → ch.access = .lohi → ch.readHigh = false →
    let l := Channel.tick^[n] ch.setLatch
    let r := Channel.tick^[m] l.readByte.2
    l.readByte.1 = ch.counter.extractLsb' 0 8 ∧ r.readByte.1 = ch.counter.extractLsb' 8 8 ∧
      l.readByte.2.latchArmed = true ∧ r.readByte.2.latchArmed = false

/-- R507, with R517 for a level other than 0 and 1: gate edges. -/
def Obligations.GateEdges : Prop :=
  ∀ (ch : Channel) (level : Nat),
    (1 < level → ch.setGate level = ch) ∧
    (level = ch.gate.toNat → ch.setGate level = ch) ∧
    (level = 1 → ch.gate = false → ch.setGate level =
      { ch with
        gate := true
        triggerPending := ch.triggerPending || decide (ch.mode ∈ [.m1, .m2, .m3, .m5]) }) ∧
    (level = 0 → ch.gate = true → ch.setGate level =
      { ch with gate := false, out := ch.out || decide (ch.mode ∈ [.m2, .m3]) })

/-- R511, R512 and R515: from the load of a count n ≥ 1 on, the output of modes 0, 1, 4 and 5 after k
more ticks. Mode 0 rises at tick n and stays; mode 1 is low for n ticks; modes 4 and 5 are low at
tick n alone. -/
def Obligations.CountdownModes : Prop :=
  ∀ (ch : Channel) (k : Nat), ch.setValue ≠ 0#16 → ch.writeIncomplete = false →
    (ch.loadPending || ch.triggerPending) = true →
    let n := ch.setValue.toNat
    let t := Channel.tick^[k] ch.tick
    (ch.mode = .m0 → ch.gate = true → ch.out = false →
      t.out = decide (n ≤ k) ∧ t.counter = ch.setValue - BitVec.ofNat 16 k) ∧
    (ch.mode = .m1 →
      t.out = decide (n ≤ k) ∧ t.counter = ch.setValue - BitVec.ofNat 16 (min k n) ∧
        t.counting = decide (k < n)) ∧
    ((ch.mode = .m4 ∧ ch.gate = true) ∨ ch.mode = .m5 →
      t.out = decide (k ≠ n) ∧ t.counter = ch.setValue - BitVec.ofNat 16 k)

/-- R513 and R514: from the load of a count n on, modes 2 and 3 after k more ticks with the gate high:
mode 2 is low one tick in n; mode 3 toggles every n / 2 ticks, rounded up. -/
def Obligations.PeriodicModes : Prop :=
  ∀ (ch : Channel) (k : Nat), ch.writeIncomplete = false → ch.gate = true →
    (ch.loadPending || ch.triggerPending) = true →
    let n := ch.setValue.toNat
    let t := Channel.tick^[k] ch.tick
    (ch.mode = .m2 → 2 ≤ n → ch.out = true →
      t.out = decide (k % n ≠ n - 1) ∧ t.counter.toNat = n - k % n) ∧
    (ch.mode = .m2 → n = 1 → ch.out = true → t.out = true ∧ t.counter = 1#16) ∧
    (ch.mode = .m3 → 1 ≤ n →
      let h := (n + 1) / 2
      t.out = (ch.out ^^ decide (k / h % 2 = 1)) ∧
        t.counter.toNat = if k % h = 0 then n else n + n % 2 - 2 * (k % h))
end

