-- ==== Sys2Proof/Laws/Flags.lean ====
section
/-! SUPPORT. FLAGS: a flag after a flag write, the reserved bits after any write, and each flag that
the flag computations leave (10_state.md R36, R40; 41_arithmetic_logic.md R250 to R254). -/

namespace Sys2Proof.Machine

/-- No flag lies on an always-clear bit. -/
theorem Flag.not_reserved (f : Flag) : flagsAlwaysClear.getLsbD f.pos = false := by
  cases f <;> decide

/-- No flag lies on a bit that a well-formed mask sets (10_state.md R35). -/
theorem Config.wf_mask {c : Config} (h : c.wf = true) (f : Flag) :
    c.flagsAlwaysSet.getLsbD f.pos = false := by
  simp only [Config.wf, beq_iff_eq] at h
  have hb := congrArg (fun v : Word => v.getLsbD f.pos) h
  cases f <;> simpa [BitVec.getLsbD_and, Flag.pos] using hb

theorem getFlag_flagsRule (set v : Word) (f : Flag) :
    getFlag f (flagsRule set v) = (getFlag f v || getFlag f set) := by
  have hp : f.pos < 16 := by cases f <;> decide
  simp only [getFlag, flagsRule, BitVec.getLsbD_or, BitVec.getLsbD_and, BitVec.getLsbD_not, hp,
    Flag.not_reserved, decide_true, Bool.not_false, Bool.and_true]

/-- A flag after a flag write: the one written, or the one that was (10_state.md R40), apart from
what the mask sets. -/
theorem getFlag_putFlag (set v : Word) (f g : Flag) (b : Bool) :
    getFlag f (putFlag set g b v) = ((if f = g then b else getFlag f v) || getFlag f set) := by
  rw [putFlag, getFlag_flagsRule]
  congr 1
  cases f <;> cases g <;> cases b <;>
    simp [getFlag, Flag.pos]

/-- The same under a well-formed mask. -/
theorem getFlag_putFlag_wf {c : Config} (h : c.wf = true) (v : Word) (f g : Flag) (b : Bool) :
    getFlag f (putFlag c.flagsAlwaysSet g b v) = if f = g then b else getFlag f v := by
  rw [getFlag_putFlag]
  simp [getFlag, Config.wf_mask h f]

theorem getFlag_flagsRule_wf {c : Config} (h : c.wf = true) (v : Word) (f : Flag) :
    getFlag f (flagsRule c.flagsAlwaysSet v) = getFlag f v := by
  rw [getFlag_flagsRule]
  simp [getFlag, Config.wf_mask h f]

/-- The write rule applied twice is the rule applied once. -/
@[simp] theorem flagsRule_flagsRule (set v : Word) :
    flagsRule set (flagsRule set v) = flagsRule set v := by
  ext i hi
  simp only [flagsRule, BitVec.getElem_or, BitVec.getElem_and, BitVec.getElem_not]
  cases v[i] <;> cases set[i] <;> cases flagsAlwaysClear[i] <;> rfl

@[simp] theorem flagsRule_putFlag (set v : Word) (f : Flag) (b : Bool) :
    flagsRule set (putFlag set f b v) = putFlag set f b v := by
  simp [putFlag]

/-- After any write the always-set bits read 1 (10_state.md R36). -/
theorem flagsRule_set (set v : Word) : flagsRule set v &&& set = set := by
  ext i hi
  simp only [flagsRule, BitVec.getElem_or, BitVec.getElem_and]
  cases set[i] <;> simp

/-- After any write under a well-formed mask bits 3 and 5 read 0 (10_state.md R36). -/
theorem flagsRule_clear {c : Config} (h : c.wf = true) (v : Word) :
    flagsRule c.flagsAlwaysSet v &&& flagsAlwaysClear = 0 := by
  simp only [Config.wf, beq_iff_eq] at h
  have hm : c.flagsAlwaysSet &&& flagsAlwaysClear = 0 := by
    have : flagsAlwaysClear = 0x0FFD#16 &&& flagsAlwaysClear := by decide
    rw [this, ← BitVec.and_assoc, h]
    rfl
  ext i hi
  have hmi := congrArg (fun x : Word => x[i]) hm
  simp only [BitVec.getElem_and] at hmi
  simp only [flagsRule, BitVec.getElem_or, BitVec.getElem_and, BitVec.getElem_not]
  revert hmi
  cases v[i] <;> cases c.flagsAlwaysSet[i] <;> cases flagsAlwaysClear[i] <;> simp

/-- SF, ZF and PF after `szp`; every other flag is kept (41_arithmetic_logic.md R250). -/
theorem getFlag_szpFlags {c : Config} (h : c.wf = true) {w : Nat} (r : BitVec w) (v : Word)
    (f : Flag) :
    getFlag f (szpFlags c.flagsAlwaysSet r v) =
      match f with
      | .sf => r.msb
      | .zf => r == 0
      | .pf => parity r
      | f => getFlag f v := by
  cases f <;> simp [szpFlags, getFlag_putFlag_wf h]

/-- Each flag after `addflags` (41_arithmetic_logic.md R252). -/
theorem getFlag_addFlags {c : Config} (h : c.wf = true) {w : Nat} (a b : BitVec w) (ci : Bool)
    (v : Word) (f : Flag) :
    getFlag f (addFlags c.flagsAlwaysSet a b ci v) =
      match f with
      | .cf => decide (2 ^ w ≤ a.toNat + b.toNat + ci.toNat)
      | .af => (a ^^^ b ^^^ addResult a b ci).getLsbD 4
      | .ofl => (~~~(a ^^^ b) &&& (a ^^^ addResult a b ci)).msb
      | .sf => (addResult a b ci).msb
      | .zf => addResult a b ci == 0
      | .pf => parity (addResult a b ci)
      | f => getFlag f v := by
  cases f <;> simp [addFlags, getFlag_szpFlags h, getFlag_putFlag_wf h]

/-- Each flag after `subflags` (41_arithmetic_logic.md R253). -/
theorem getFlag_subFlags {c : Config} (h : c.wf = true) {w : Nat} (a b : BitVec w) (ci : Bool)
    (v : Word) (f : Flag) :
    getFlag f (subFlags c.flagsAlwaysSet a b ci v) =
      match f with
      | .cf => decide (a.toNat < b.toNat + ci.toNat)
      | .af => (a ^^^ b ^^^ subResult a b ci).getLsbD 4
      | .ofl => ((a ^^^ b) &&& (a ^^^ subResult a b ci)).msb
      | .sf => (subResult a b ci).msb
      | .zf => subResult a b ci == 0
      | .pf => parity (subResult a b ci)
      | f => getFlag f v := by
  cases f <;> simp [subFlags, getFlag_szpFlags h, getFlag_putFlag_wf h]

/-- Each flag after `logicflags`: AF and the control flags are kept (41_arithmetic_logic.md
R254). -/
theorem getFlag_logicFlags {c : Config} (h : c.wf = true) {w : Nat} (r : BitVec w) (v : Word)
    (f : Flag) :
    getFlag f (logicFlags c.flagsAlwaysSet r v) =
      match f with
      | .cf => false
      | .ofl => false
      | .sf => r.msb
      | .zf => r == 0
      | .pf => parity r
      | f => getFlag f v := by
  cases f <;> simp [logicFlags, getFlag_szpFlags h, getFlag_putFlag_wf h]

/-- Each flag after a shift or rotate (42_shift_rotate.md R302 to R309). -/
theorem getFlag_shiftFlags {c : Config} (h : c.wf = true) {w : Nat} (k : ShiftOp) (n : Nat)
    (x0 r : BitVec w) (out : Bool) (d : Nat) (v : Word) (f : Flag) :
    getFlag f (shiftFlags c.flagsAlwaysSet k n x0 r out d v) =
      match f with
      | .cf => out
      | .ofl => if n = 1 then shiftOf1 k x0 r out else Config.drawShiftOf d
      | .af => if k.isShift then Config.drawShiftAf d else getFlag .af v
      | .sf => if k.isShift then r.msb else getFlag .sf v
      | .zf => if k.isShift then r == 0 else getFlag .zf v
      | .pf => if k.isShift then parity r else getFlag .pf v
      | f => getFlag f v := by
  by_cases hk : k.isShift <;> cases f <;>
    simp [shiftFlags, hk, getFlag_szpFlags h, getFlag_putFlag_wf h]

/-- A condition with bit 0 set is the inverse of the one without (43_control_transfer.md R342). -/
theorem condition_inverse (c : BitVec 4) (v : Word) :
    condition (c ^^^ 1#4) v = !condition c v := by
  have h : ∀ c : BitVec 4, (c ^^^ 1#4).toNat / 2 = c.toNat / 2 ∧
      (c ^^^ 1#4).getLsbD 0 = !c.getLsbD 0 := by decide
  unfold condition
  rw [(h c).1, (h c).2]
  cases c.getLsbD 0 <;> simp

end Sys2Proof.Machine
end

