-- ==== Sys2Proof/Laws/Arith.lean ====
section
/-! SUPPORT. The machine's results and flags are the ones that arithmetic gives: carries, borrows and
signs of numbers (41_arithmetic_logic.md R250 to R254), and the shift steps (42_shift_rotate.md
R301 to R308). -/

namespace Sys2Proof.Machine

/-! ## Results -/

theorem addResult_eq {w : Nat} (a b : BitVec w) (c : Bool) :
    addResult a b c = a + b + BitVec.ofNat w c.toNat := by
  apply BitVec.eq_of_toNat_eq
  simp [addResult, BitVec.toNat_add]

theorem addResult_false {w : Nat} (a b : BitVec w) : addResult a b false = a + b := by
  simp [addResult_eq]

theorem subResult_eq {w : Nat} (a b : BitVec w) (c : Bool) :
    subResult a b c = a - b - BitVec.ofNat w c.toNat := by
  rw [subResult, Int.sub_eq_add_neg, Int.sub_eq_add_neg, BitVec.ofInt_add, BitVec.ofInt_add,
    BitVec.ofInt_neg, BitVec.ofInt_neg, BitVec.ofInt_natCast, BitVec.ofInt_natCast,
    BitVec.ofInt_natCast, BitVec.ofNat_toNat, BitVec.ofNat_toNat, BitVec.sub_eq_add_neg,
    BitVec.sub_eq_add_neg]
  simp

theorem subResult_false {w : Nat} (a b : BitVec w) : subResult a b false = a - b := by
  simp [subResult_eq]

/-- The difference as a number: borrowed from 2^w when it would be negative. -/
theorem toNat_subResult {w : Nat} (a b : BitVec w) (c : Bool) (hw : 0 < w) :
    (subResult a b c).toNat =
      if a.toNat < b.toNat + c.toNat then a.toNat + 2 ^ w - (b.toNat + c.toNat)
      else a.toNat - (b.toNat + c.toNat) := by
  have ha := a.isLt
  have hb := b.isLt
  have hc : c.toNat ≤ 1 := Bool.toNat_le c
  have hp : 2 ≤ 2 ^ w := by
    calc 2 = 2 ^ 1 := rfl
      _ ≤ 2 ^ w := Nat.pow_le_pow_right (by decide) hw
  have h : (subResult a b c).toNat =
      (((a.toNat : Int) - b.toNat - c.toNat) % (2 ^ w : Nat)).toNat := by
    simp [subResult, BitVec.toNat_ofInt]
  rw [h]
  generalize 2 ^ w = m at *
  split
  · have : ((a.toNat : Int) - b.toNat - c.toNat) % (m : Nat) =
        (a.toNat : Int) - b.toNat - c.toNat + m := by
      rw [← Int.add_emod_right, Int.emod_eq_of_lt] <;> omega
    rw [this]
    omega
  · rw [Int.emod_eq_of_lt (by omega) (by omega)]
    omega

theorem toNat_addResult {w : Nat} (a b : BitVec w) (c : Bool) :
    (addResult a b c).toNat =
      if 2 ^ w ≤ a.toNat + b.toNat + c.toNat then a.toNat + b.toNat + c.toNat - 2 ^ w
      else a.toNat + b.toNat + c.toNat := by
  have ha := a.isLt
  have hb := b.isLt
  have hc : c.toNat ≤ 1 := Bool.toNat_le c
  simp only [addResult, BitVec.toNat_ofNat]
  generalize 2 ^ w = m at *
  split
  · rw [Nat.mod_eq_sub_mod (by assumption), Nat.mod_eq_of_lt (by omega)]
  · exact Nat.mod_eq_of_lt (by omega)

/-! ## Flags -/

/-- Bit 4 of the exclusive or of three numbers. -/
theorem xor_bit_four {w : Nat} (a b r : BitVec w) :
    (a ^^^ b ^^^ r).getLsbD 4 =
      decide ((a.toNat / 16 + b.toNat / 16 + r.toNat / 16) % 2 = 1) := by
  have h : ∀ x : BitVec w, x.getLsbD 4 = decide (x.toNat / 16 % 2 = 1) := fun x => by
    simp [BitVec.getLsbD, Nat.testBit_eq_decide_div_mod_eq]
  rw [BitVec.getLsbD_xor, BitVec.getLsbD_xor, h, h, h]
  rcases Nat.mod_two_eq_zero_or_one (a.toNat / 16) with ha | ha <;>
    rcases Nat.mod_two_eq_zero_or_one (b.toNat / 16) with hb | hb <;>
    rcases Nat.mod_two_eq_zero_or_one (r.toNat / 16) with hr | hr <;>
    simp [ha, hb, hr, Nat.add_mod]

theorem two_pow_eq {w : Nat} (hw : 5 ≤ w) : ∃ m, 2 ^ w = 32 * m :=
  ⟨2 ^ (w - 5), by rw [show (32 : Nat) = 2 ^ 5 from rfl, ← pow_add]; congr 1; omega⟩

/-- AF after an addition is the carry out of bit 3 (41_arithmetic_logic.md R252). -/
theorem add_af {w : Nat} (hw : 5 ≤ w) (a b : BitVec w) (c : Bool) :
    (a ^^^ b ^^^ addResult a b c).getLsbD 4 =
      decide (16 ≤ a.toNat % 16 + b.toNat % 16 + c.toNat) := by
  obtain ⟨m, hm⟩ := two_pow_eq hw
  have hc : c.toNat ≤ 1 := Bool.toNat_le c
  rw [xor_bit_four, toNat_addResult, hm, decide_eq_decide]
  split <;> omega

/-- AF after a subtraction is the borrow from bit 4 into bit 3 (41_arithmetic_logic.md R253). -/
theorem sub_af {w : Nat} (hw : 5 ≤ w) (a b : BitVec w) (c : Bool) :
    (a ^^^ b ^^^ subResult a b c).getLsbD 4 =
      decide (a.toNat % 16 < b.toNat % 16 + c.toNat) := by
  obtain ⟨m, hm⟩ := two_pow_eq hw
  have hc : c.toNat ≤ 1 := Bool.toNat_le c
  have ha := a.isLt
  have hb := b.isLt
  rw [xor_bit_four, toNat_subResult a b c (by omega), hm, decide_eq_decide]
  split <;> omega

theorem add_of {w : Nat} (hw : 0 < w) (a b r : BitVec w) :
    (~~~(a ^^^ b) &&& (a ^^^ r)).msb = (a.msb == b.msb && r.msb != a.msb) := by
  simp only [BitVec.msb_and, BitVec.msb_xor, BitVec.msb_not, hw, decide_true, Bool.true_and]
  cases a.msb <;> cases b.msb <;> cases r.msb <;> rfl

theorem sub_of {w : Nat} (a b r : BitVec w) :
    ((a ^^^ b) &&& (a ^^^ r)).msb = (a.msb != b.msb && r.msb != a.msb) := by
  simp only [BitVec.msb_and, BitVec.msb_xor]
  cases a.msb <;> cases b.msb <;> cases r.msb <;> rfl

theorem msb_eq {w : Nat} (r : BitVec w) : r.msb = decide (2 ^ (w - 1) ≤ r.toNat) :=
  BitVec.msb_eq_decide r

theorem beq_zero_eq {w : Nat} (r : BitVec w) : (r == 0) = decide (r.toNat = 0) := by
  rw [Bool.eq_iff_iff]
  simp [BitVec.toNat_eq]

theorem parity_eq {w : Nat} (r : BitVec w) : parity r = evenOnes r := by
  have h : onesCount (r.setWidth 8) =
      ((List.range 8).filter fun k => r.getLsbD k).length := by
    simp only [onesCount, BitVec.getLsbD_setWidth, List.range, List.range.loop, List.filter]
    cases r.getLsbD 0 <;> cases r.getLsbD 1 <;> cases r.getLsbD 2 <;> cases r.getLsbD 3 <;>
      cases r.getLsbD 4 <;> cases r.getLsbD 5 <;> cases r.getLsbD 6 <;> cases r.getLsbD 7 <;> rfl
  rw [parity, evenOnes, h]

/-- The flags of `addflags` by arithmetic (41_arithmetic_logic.md R252). -/
theorem getFlag_addFlags_eq {c : Config} (h : c.wf = true) {w : Nat} (hw : 5 ≤ w) (a b : BitVec w)
    (ci : Bool) (v : Word) (f : Flag) :
    getFlag f (addFlags c.flagsAlwaysSet a b ci v) =
      (addFlag a b ci (addResult a b ci) f).getD (getFlag f v) := by
  rw [getFlag_addFlags h, add_af hw, add_of (by omega), msb_eq, beq_zero_eq, parity_eq]
  cases f <;> simp [addFlag, resultFlag, msb_eq]

/-- The flags of `subflags` by arithmetic (41_arithmetic_logic.md R253). -/
theorem getFlag_subFlags_eq {c : Config} (h : c.wf = true) {w : Nat} (hw : 5 ≤ w) (a b : BitVec w)
    (ci : Bool) (v : Word) (f : Flag) :
    getFlag f (subFlags c.flagsAlwaysSet a b ci v) =
      (subFlag a b ci (subResult a b ci) f).getD (getFlag f v) := by
  rw [getFlag_subFlags h, sub_af hw, sub_of, msb_eq, beq_zero_eq, parity_eq]
  cases f <;> simp [subFlag, resultFlag, msb_eq]

/-- The flags of `logicflags` (41_arithmetic_logic.md R254). -/
theorem getFlag_logicFlags_eq {c : Config} (h : c.wf = true) {w : Nat} (r : BitVec w) (v : Word)
    (f : Flag) :
    getFlag f (logicFlags c.flagsAlwaysSet r v) = (logicFlag r f).getD (getFlag f v) := by
  rw [getFlag_logicFlags h, msb_eq, beq_zero_eq, parity_eq]
  cases f <;> simp [logicFlag, resultFlag]

/-- The value an ALU operation writes (41_arithmetic_logic.md R256 to R263). -/
theorem aluResult_eq {w : Nat} (k : AluOp) (a b : BitVec w) (cf : Bool) :
    aluResult k a b cf = if k = .cmp then none else some (aluValue k a b cf) := by
  cases k <;> simp [aluResult, aluValue, addResult_eq, subResult_eq]

/-- The flags an ALU operation writes (41_arithmetic_logic.md R256 to R263). -/
theorem getFlag_aluFlags {c : Config} (h : c.wf = true) {w : Nat} (hw : 5 ≤ w) (k : AluOp)
    (a b : BitVec w) (v : Word) (f : Flag) :
    getFlag f (aluFlags c.flagsAlwaysSet k a b v) =
      (aluFlag k a b (getFlag .cf v) f).getD (getFlag f v) := by
  cases k <;> simp only [aluFlags, aluFlag, getFlag_addFlags_eq h hw, getFlag_subFlags_eq h hw,
    getFlag_logicFlags_eq h, aluValue, addResult_eq, subResult_eq, Bool.toNat_false,
    BitVec.add_zero, BitVec.sub_zero]

theorem getFlag_incFlags {c : Config} (h : c.wf = true) {w : Nat} (hw : 5 ≤ w) (a : BitVec w)
    (v : Word) (f : Flag) :
    getFlag f (incFlags c.flagsAlwaysSet a v) =
      (keepCarry (addFlag a 1 false (a + 1)) f).getD (getFlag f v) := by
  rw [incFlags, getFlag_putFlag_wf h]
  by_cases hf : f = .cf
  · subst hf; simp [keepCarry]
  · rw [if_neg hf, getFlag_addFlags_eq h hw, addResult_false]
    cases f <;> first | rfl | exact absurd rfl hf

theorem getFlag_decFlags {c : Config} (h : c.wf = true) {w : Nat} (hw : 5 ≤ w) (a : BitVec w)
    (v : Word) (f : Flag) :
    getFlag f (decFlags c.flagsAlwaysSet a v) =
      (keepCarry (subFlag a 1 false (a - 1)) f).getD (getFlag f v) := by
  rw [decFlags, getFlag_putFlag_wf h]
  by_cases hf : f = .cf
  · subst hf; simp [keepCarry]
  · rw [if_neg hf, getFlag_subFlags_eq h hw, subResult_false]
    cases f <;> first | rfl | exact absurd rfl hf

/-! ## Shifts and rotates -/

theorem bitAt_eq (w : Nat) (b : Bool) (i : Nat) :
    bitAt w b i = BitVec.ofNat w b.toNat <<< i := rfl

/-- Each one-bit step moves the bits as rotation and shift do (42_shift_rotate.md R302 to R308). -/
theorem shiftStep_eq {w : Nat} (hw : 2 ≤ w) (k : ShiftOp) (x : BitVec w) (cf : Bool) :
    shiftStep k x cf = oneStep k (x, cf) := by
  have h1 : 1 % w = 1 := Nat.mod_eq_of_lt (by omega)
  have hbit : ∀ (b : Bool) (j i : Nat) (hi : i < w),
      (BitVec.ofNat w b.toNat <<< j)[i] = (b && decide (i = j)) := by
    intro b j i hi
    cases b
    · simp
    · by_cases hij : i = j
      · subst hij
        simp
      · by_cases hlt : i < j
        · simp [hlt, hij]
        · have : i - j ≠ 0 := by omega
          simp [hlt, hij, this]
  cases k with
  | rol =>
    simp only [shiftStep, oneStep, bitAt_eq, Prod.mk.injEq, and_true]
    ext i hi
    rw [BitVec.getElem_or, hbit, BitVec.getElem_rotateLeft]
    by_cases h0 : i = 0
    · subst h0
      simp [h1, BitVec.msb_eq_getLsbD_last, BitVec.getLsbD_eq_getElem (by omega : w - 1 < w)]
    · simp [h1, h0, show ¬ i < 1 by omega]
  | ror =>
    simp only [shiftStep, oneStep, bitAt_eq, Prod.mk.injEq, and_true]
    ext i hi
    rw [BitVec.getElem_or, hbit, BitVec.getElem_rotateRight]
    by_cases h0 : i = w - 1
    · subst h0
      simp [h1, show 1 + (w - 1) = w by omega, BitVec.getLsbD_eq_getElem (by omega : 0 < w)]
    · simp [h1, h0, show i < w - 1 by omega, BitVec.getLsbD_eq_getElem (by omega : 1 + i < w)]
  | rcl => simp [shiftStep, oneStep, bitAt_eq]
  | rcr => simp [shiftStep, oneStep, bitAt_eq]
  | shl => rfl
  | shr => rfl
  | sar =>
    simp only [shiftStep, oneStep, bitAt_eq, Prod.mk.injEq, and_true]
    ext i hi
    rw [BitVec.getElem_or, hbit, BitVec.getElem_sshiftRight]
    by_cases h0 : i = w - 1
    · subst h0
      simp [show 1 + (w - 1) = w by omega]
    · simp [h0, show 1 + i < w by omega]

theorem shiftSteps_eq {w : Nat} (hw : 2 ≤ w) (k : ShiftOp) (n : Nat) (x : BitVec w) (cf : Bool) :
    shiftSteps k n x cf = manySteps k n x cf := by
  induction n generalizing x cf with
  | zero => rfl
  | succ n ih =>
    simp only [shiftSteps, ih, manySteps, Function.iterate_succ, Function.comp_apply,
      shiftStep_eq hw]

theorem shiftOf1_eq {w : Nat} (k : ShiftOp) (x r : BitVec w) (c : Bool) :
    shiftOf1 k x r c = overflowAfterOne k x r c := by cases k <;> rfl

/-- The flags of a shift or rotate, with the values that OF and AF draw (42_shift_rotate.md R302 to
R309). -/
theorem getFlag_shiftFlags_eq {c : Config} (h : c.wf = true) {w : Nat} (k : ShiftOp) (n : Nat)
    (x r : BitVec w) (out : Bool) (d : Nat) (v : Word) (f : Flag) :
    getFlag f (shiftFlags c.flagsAlwaysSet k n x r out d v) =
      (shiftFlag k r out (if n = 1 then overflowAfterOne k x r out else Config.drawShiftOf d)
        (Config.drawShiftAf d) f).getD (getFlag f v) := by
  rw [getFlag_shiftFlags h, shiftOf1_eq, msb_eq, beq_zero_eq, parity_eq]
  cases f <;> cases hk : k.isShift <;> simp [shiftFlag, resultFlag, hk]

end Sys2Proof.Machine
end

