-- ==== Sys2Proof/Laws/Words.lean ====
section
/-! SUPPORT. Bytes of words, register codes and ModRM fields: each encoding undone by its
decoding. -/

namespace Sys2Proof

@[simp] theorem loByte_wordOf (lo hi : Byte) : loByte (wordOf lo hi) = lo := by
  ext i hi'
  simp [loByte, wordOf]

@[simp] theorem hiByte_wordOf (lo hi : Byte) : hiByte (wordOf lo hi) = hi := by
  ext i hi'
  have h1 : ¬ 8 + i < 8 := by omega
  have h2 : 8 + i < 16 := by omega
  simp [hiByte, wordOf, h2, BitVec.getLsbD_eq_getElem hi']

@[simp] theorem wordOf_lo_hi (w : Word) : wordOf (loByte w) (hiByte w) = w := by
  ext i hi'
  simp only [loByte, hiByte, wordOf, BitVec.getElem_or, BitVec.getElem_setWidth,
    BitVec.getLsbD_setWidth, BitVec.getElem_shiftLeft, BitVec.getLsbD_ushiftRight]
  by_cases h : i < 8
  · simp [h, BitVec.getLsbD_eq_getElem hi']
  · have : 8 + (i - 8) = i := by omega
    have h8 : i - 8 < 8 := by omega
    simp [h, this, h8, BitVec.getLsbD_eq_getElem hi']

theorem wordOf_inj {a b c d : Byte} : wordOf a b = wordOf c d ↔ a = c ∧ b = d := by
  constructor
  · intro h
    exact ⟨by simpa using congrArg loByte h, by simpa using congrArg hiByte h⟩
  · rintro ⟨rfl, rfl⟩
    rfl

@[simp] theorem Reg8.ofCode_code (r : Reg8) : Reg8.ofCode r.code = r := by cases r <;> rfl
@[simp] theorem Reg16.ofCode_code (r : Reg16) : Reg16.ofCode r.code = r := by cases r <;> rfl
@[simp] theorem SReg.ofCode3_code3 (r : SReg) : SReg.ofCode3 r.code3 = some r := by
  cases r <;> rfl
@[simp] theorem AddrBase.ofCode_code (b : AddrBase) : AddrBase.ofCode b.code = b := by
  cases b <;> rfl
@[simp] theorem Reg8.code_ofCode (c : BitVec 3) : (Reg8.ofCode c).code = c := by
  revert c; decide
@[simp] theorem Reg16.code_ofCode (c : BitVec 3) : (Reg16.ofCode c).code = c := by
  revert c; decide
@[simp] theorem AddrBase.code_ofCode (c : BitVec 3) : (AddrBase.ofCode c).code = c := by
  revert c; decide

/-- Only BP has the code that mod = 00 takes for a direct address (30_encoding.md R150). -/
theorem AddrBase.code_eq_six (b : AddrBase) : b.code = 6#3 ↔ b = .bp := by cases b <;> decide

@[simp] theorem modField_modrmByte (md : BitVec 2) (reg rm : BitVec 3) :
    modField (modrmByte md reg rm) = md := by revert md reg rm; decide
@[simp] theorem regField_modrmByte (md : BitVec 2) (reg rm : BitVec 3) :
    regField (modrmByte md reg rm) = reg := by revert md reg rm; decide
@[simp] theorem rmField_modrmByte (md : BitVec 2) (reg rm : BitVec 3) :
    rmField (modrmByte md reg rm) = rm := by revert md reg rm; decide
@[simp] theorem modrmByte_fields (m : Byte) :
    modrmByte (modField m) (regField m) (rmField m) = m := by revert m; decide

end Sys2Proof
end

