-- ==== Sys2Proof/Laws/Decode.lean ====
section
/-! SUPPORT. The decoder by its shapes: what each kind of row reads from the bytes of its encoding,
which bytes each kind consumed, and when a list is too short. -/

namespace Sys2Proof

/-- The mod and rm fields' meaning of an Eb operand. -/
def Ea8.rm : Ea8 → Rm
  | .reg r => .reg r.code
  | .mem m => .mem m

/-- The mod and rm fields' meaning of an Ew operand. -/
def Ea16.rm : Ea16 → Rm
  | .reg r => .reg r.code
  | .mem m => .mem m

@[simp] theorem Ea8.ea8_rm (e : Ea8) : e.rm.ea8 = e := by cases e <;> simp [Ea8.rm, Rm.ea8]
@[simp] theorem Ea16.ea16_rm (e : Ea16) : e.rm.ea16 = e := by cases e <;> simp [Ea16.rm, Rm.ea16]

/-! ## Fields -/

@[simp] theorem fieldByte_cons (k : Byte → Instr) (b : Byte) (r : List Byte) :
    fieldByte k (b :: r) = .ok (k b, r) := rfl

@[simp] theorem fieldWord_bytes (k : Word → Instr) (w : Word) (r : List Byte) :
    fieldWord k (wordBytes w ++ r) = .ok (k w, r) := by simp [wordBytes, fieldWord]

@[simp] theorem fieldFar_bytes (k : Word → Word → Instr) (a b : Word) (r : List Byte) :
    fieldFar k (wordBytes a ++ (wordBytes b ++ r)) = .ok (k a b, r) := by
  simp [wordBytes, fieldFar]

theorem fieldByte_ok {k : Byte → Instr} {bs r : List Byte} {i : Instr}
    (h : fieldByte k bs = .ok (i, r)) : ∃ b, i = k b ∧ bs = b :: r := by
  cases bs with
  | nil => simp [fieldByte] at h
  | cons b t =>
    simp only [fieldByte, Except.ok.injEq, Prod.mk.injEq] at h
    exact ⟨b, h.1.symm, by rw [h.2]⟩

theorem fieldWord_ok {k : Word → Instr} {bs r : List Byte} {i : Instr}
    (h : fieldWord k bs = .ok (i, r)) : ∃ w, i = k w ∧ bs = wordBytes w ++ r := by
  match bs, h with
  | a :: b :: t, h =>
    simp only [fieldWord, Except.ok.injEq, Prod.mk.injEq] at h
    exact ⟨wordOf a b, h.1.symm, by simp [wordBytes, h.2]⟩
  | [_], h => simp [fieldWord] at h
  | [], h => simp [fieldWord] at h

theorem fieldFar_ok {k : Word → Word → Instr} {bs r : List Byte} {i : Instr}
    (h : fieldFar k bs = .ok (i, r)) :
    ∃ a b, i = k a b ∧ bs = wordBytes a ++ (wordBytes b ++ r) := by
  match bs, h with
  | a :: b :: c :: d :: t, h =>
    simp only [fieldFar, Except.ok.injEq, Prod.mk.injEq] at h
    exact ⟨wordOf a b, wordOf c d, h.1.symm, by simp [wordBytes, h.2]⟩
  | [_, _, _], h | [_, _], h | [_], h | [], h => simp [fieldFar] at h

/-! ## ModRM -/

/-- The displacement that a memory operand's encoding holds is the one the decoder reads
(30_encoding.md R150, R151). -/
theorem readRm_mem {m : MemOp} (hm : m.wf = true) (reg : BitVec 3) (rest : List Byte) :
    ∃ b t, m.bytes reg = b :: t ∧ regField b = reg ∧ modField b ≠ 3#2 ∧
      readRm b (t ++ rest) = some (.mem m, rest) := by
  cases m with
  | direct off =>
    exact ⟨_, _, rfl, by simp, by simp, by simp [readRm, wordBytes]⟩
  | based b d =>
    cases d with
    | none =>
      have hb : b.code ≠ 6#3 := by
        intro h
        rw [AddrBase.code_eq_six] at h
        simp [MemOp.wf, h] at hm
      exact ⟨_, _, rfl, by simp, by simp, by simp [readRm, hb]⟩
    | d8 v => exact ⟨_, _, rfl, by simp, by simp, by simp [readRm]⟩
    | d16 v => exact ⟨_, _, rfl, by simp, by simp, by simp [readRm, wordBytes]⟩

theorem readRm_reg (c reg : BitVec 3) (rest : List Byte) :
    readRm (modrmByte 3 reg c) rest = some (.reg c, rest) := by simp [readRm]

theorem readRm_ea8 {e : Ea8} (he : e.wf = true) (reg : BitVec 3) (rest : List Byte) :
    ∃ b t, e.bytes reg = b :: t ∧ regField b = reg ∧
      readRm b (t ++ rest) = some (e.rm, rest) := by
  cases e with
  | reg r => exact ⟨_, _, rfl, by simp, readRm_reg _ _ _⟩
  | mem m =>
    obtain ⟨b, t, h1, h2, -, h3⟩ := readRm_mem he reg rest
    exact ⟨b, t, h1, h2, h3⟩

theorem readRm_ea16 {e : Ea16} (he : e.wf = true) (reg : BitVec 3) (rest : List Byte) :
    ∃ b t, e.bytes reg = b :: t ∧ regField b = reg ∧
      readRm b (t ++ rest) = some (e.rm, rest) := by
  cases e with
  | reg r => exact ⟨_, _, rfl, by simp, readRm_reg _ _ _⟩
  | mem m =>
    obtain ⟨b, t, h1, h2, -, h3⟩ := readRm_mem he reg rest
    exact ⟨b, t, h1, h2, h3⟩

section Shapes

variable {α : Type} {sel : BitVec 3 → Except Reject α} {k : α → Rm → List Byte → DecodeResult}

/-- The reg field decides first (30_encoding.md R131). -/
theorem modrm_error {m : Byte} {x : Reject} (h : sel (regField m) = .error x) (r : List Byte) :
    modrm sel k (m :: r) = .error x := by simp [modrm, h]

theorem modrm_ea8 {e : Ea8} (he : e.wf = true) {reg : BitVec 3} {a : α} (ha : sel reg = .ok a)
    (rest : List Byte) : modrm sel k (e.bytes reg ++ rest) = k a e.rm rest := by
  obtain ⟨b, t, h1, h2, h3⟩ := readRm_ea8 he reg rest
  simp [h1, modrm, h2, ha, h3]

theorem modrm_ea16 {e : Ea16} (he : e.wf = true) {reg : BitVec 3} {a : α} (ha : sel reg = .ok a)
    (rest : List Byte) : modrm sel k (e.bytes reg ++ rest) = k a e.rm rest := by
  obtain ⟨b, t, h1, h2, h3⟩ := readRm_ea16 he reg rest
  simp [h1, modrm, h2, ha, h3]

/-- What `readRm` read, and from which bytes. -/
theorem readRm_some {m : Byte} {bs r : List Byte} {rm : Rm} (h : readRm m bs = some (rm, r)) :
    (rm.ea8.wf = true ∧ m :: bs = rm.ea8.bytes (regField m) ++ r) ∧
      (rm.ea16.wf = true ∧ m :: bs = rm.ea16.bytes (regField m) ++ r) := by
  have hm := modrmByte_fields m
  have h4 : modField m = 0#2 ∨ modField m = 1#2 ∨ modField m = 2#2 ∨ modField m = 3#2 := by
    generalize modField m = x
    revert x
    decide
  rcases h4 with h0 | h1 | h2 | h3
  · rw [h0] at hm
    by_cases h6 : rmField m = 6#3
    · rw [h6] at hm
      match bs, h with
      | a :: b :: t, h =>
        simp only [readRm, h0, h6] at h
        simp only [BitVec.toNat_ofNat, Nat.zero_mod, if_true, Option.some.injEq,
          Prod.mk.injEq] at h
        obtain ⟨rfl, rfl⟩ := h
        simp [Rm.ea8, Rm.ea16, Ea8.wf, Ea16.wf, MemOp.wf, Ea8.bytes, Ea16.bytes, MemOp.bytes,
          wordBytes, hm]
      | [_], h => simp [readRm, h0, h6] at h
      | [], h => simp [readRm, h0, h6] at h
    · simp only [readRm, h0, h6] at h
      simp only [BitVec.toNat_ofNat, Nat.zero_mod, if_false, Option.some.injEq,
        Prod.mk.injEq] at h
      obtain ⟨rfl, rfl⟩ := h
      have hb : AddrBase.ofCode (rmField m) ≠ .bp := by
        intro hb
        apply h6
        rw [← AddrBase.code_ofCode (rmField m), hb]
        rfl
      simp [Rm.ea8, Rm.ea16, Ea8.wf, Ea16.wf, MemOp.wf, Ea8.bytes, Ea16.bytes, MemOp.bytes, hm, hb]
  · rw [h1] at hm
    match bs, h with
    | a :: t, h =>
      simp only [readRm, h1] at h
      simp only [BitVec.toNat_ofNat, Option.some.injEq, Prod.mk.injEq] at h
      obtain ⟨rfl, rfl⟩ := h
      simp [Rm.ea8, Rm.ea16, Ea8.wf, Ea16.wf, MemOp.wf, Ea8.bytes, Ea16.bytes, MemOp.bytes, hm]
    | [], h => simp [readRm, h1] at h
  · rw [h2] at hm
    match bs, h with
    | a :: b :: t, h =>
      simp only [readRm, h2] at h
      simp only [BitVec.toNat_ofNat, Option.some.injEq, Prod.mk.injEq] at h
      obtain ⟨rfl, rfl⟩ := h
      simp [Rm.ea8, Rm.ea16, Ea8.wf, Ea16.wf, MemOp.wf, Ea8.bytes, Ea16.bytes, MemOp.bytes,
        wordBytes, hm]
    | [_], h => simp [readRm, h2] at h
    | [], h => simp [readRm, h2] at h
  · rw [h3] at hm
    have h' : some (Rm.reg (rmField m), bs) = some (rm, r) := by
      rw [← h]
      simp [readRm, h3]
    simp only [Option.some.injEq, Prod.mk.injEq] at h'
    obtain ⟨rfl, rfl⟩ := h'
    simp [Rm.ea8, Rm.ea16, Ea8.wf, Ea16.wf, Ea8.bytes, Ea16.bytes, hm]

/-- What a ModRM row read: a legal reg field, an operand, and the rest of the row after it. -/
theorem modrm_ok {bs r : List Byte} {i : Instr} (h : modrm sel k bs = .ok (i, r)) :
    ∃ m t a rm t', bs = m :: t ∧ sel (regField m) = .ok a ∧ readRm m t = some (rm, t') ∧
      k a rm t' = .ok (i, r) := by
  cases bs with
  | nil => simp [modrm] at h
  | cons m t =>
    simp only [modrm] at h
    cases ha : sel (regField m) with
    | error x => simp [ha] at h
    | ok a =>
      simp only [ha] at h
      cases hr : readRm m t with
      | none => simp [hr] at h
      | some p =>
        obtain ⟨rm, t'⟩ := p
        simp only [hr] at h
        exact ⟨m, t, a, rm, t', rfl, ha, hr, h⟩

/-- A list too short for a ModRM row has at most three bytes, unless what follows the operand is too
short. -/
theorem modrm_truncated {bs : List Byte} (h : modrm sel k bs = .error .truncated)
    (hs : ∀ c, sel c ≠ .error .truncated) :
    bs.length < 3 ∨ ∃ a rm t, k a rm t = .error .truncated ∧ bs.length ≤ t.length + 3 := by
  cases bs with
  | nil => exact .inl (by simp)
  | cons m t =>
    simp only [modrm] at h
    cases ha : sel (regField m) with
    | error x => simp only [ha] at h; exact absurd (ha.trans (by simpa using h)) (hs _)
    | ok a =>
      simp only [ha] at h
      cases hr : readRm m t with
      | none =>
        refine .inl ?_
        simp only [readRm] at hr
        split at hr
        · split at hr
          · split at hr <;> simp_all
          · simp at hr
        all_goals simp_all
      | some p =>
        obtain ⟨rm, t'⟩ := p
        simp only [hr] at h
        refine .inr ⟨a, rm, t', h, ?_⟩
        have := congrArg List.length (readRm_some hr).1.2
        simp only [List.length_cons, List.length_append] at this ⊢
        have hlen : (rm.ea8.bytes (regField m)).length ≤ 3 := by
          cases rm.ea8 with
          | reg r => simp [Ea8.bytes]
          | mem m =>
            cases m with
            | direct off => simp [Ea8.bytes, MemOp.bytes, wordBytes]
            | based b d => cases d <;> simp [Ea8.bytes, MemOp.bytes, wordBytes]
        omega

end Shapes

/-! ## Rows: reading an encoding -/

@[simp] theorem modrmEbGb_bytes {e : Ea8} (he : e.wf = true) (c : Ea8 → Reg8 → Instr) (g : Reg8)
    (r : List Byte) : modrmEbGb c (e.bytes g.code ++ r) = .ok (c e g, r) := by
  rw [modrmEbGb, modrm_ea8 he rfl]; simp
@[simp] theorem modrmEwGw_bytes {e : Ea16} (he : e.wf = true) (c : Ea16 → Reg16 → Instr)
    (g : Reg16) (r : List Byte) : modrmEwGw c (e.bytes g.code ++ r) = .ok (c e g, r) := by
  rw [modrmEwGw, modrm_ea16 he rfl]; simp
@[simp] theorem modrmGbEb_bytes {e : Ea8} (he : e.wf = true) (c : Reg8 → Ea8 → Instr) (g : Reg8)
    (r : List Byte) : modrmGbEb c (e.bytes g.code ++ r) = .ok (c g e, r) := by
  rw [modrmGbEb, modrm_ea8 he rfl]; simp
@[simp] theorem modrmGwEw_bytes {e : Ea16} (he : e.wf = true) (c : Reg16 → Ea16 → Instr)
    (g : Reg16) (r : List Byte) : modrmGwEw c (e.bytes g.code ++ r) = .ok (c g e, r) := by
  rw [modrmGwEw, modrm_ea16 he rfl]; simp

theorem segmentField_code {op : Byte} {legal : SReg → Bool} {sr : SReg} (h : legal sr = true) :
    segmentField op legal sr.code3 = .ok sr := by simp [segmentField, h]

@[simp] theorem modrmEwSw_bytes {e : Ea16} (he : e.wf = true) (op : Byte)
    (c : Ea16 → SReg → Instr) (sr : SReg) (r : List Byte) :
    modrmEwSw op c (e.bytes sr.code3 ++ r) = .ok (c e sr, r) := by
  rw [modrmEwSw, modrm_ea16 he (segmentField_code rfl)]; simp
@[simp] theorem modrmSwEw_bytes {e : Ea16} (he : e.wf = true) (op : Byte)
    (c : SReg → Ea16 → Instr) {sr : SReg} (hs : sr.movDest = true) (r : List Byte) :
    modrmSwEw op c (e.bytes sr.code3 ++ r) = .ok (c sr e, r) := by
  rw [modrmSwEw, modrm_ea16 he (segmentField_code hs)]; simp

theorem extension_some {α : Type} {op : Byte} {sel : BitVec 3 → Option α} {reg : BitVec 3} {a : α}
    (h : sel reg = some a) : extension op sel reg = .ok a := by simp [extension, h]

theorem extension_none {α : Type} {op : Byte} {sel : BitVec 3 → Option α} {reg : BitVec 3}
    (h : sel reg = none) : extension op sel reg = .error (.fault (.unknownExtension op reg)) := by
  simp [extension, h]

theorem groupEb_bytes {e : Ea8} (he : e.wf = true) {op : Byte} {sel : BitVec 3 → Option (Ea8 → Instr)}
    {reg : BitVec 3} {c : Ea8 → Instr} (h : sel reg = some c) (r : List Byte) :
    groupEb op sel (e.bytes reg ++ r) = .ok (c e, r) := by
  rw [groupEb, modrm_ea8 he (extension_some h)]; simp
theorem groupEw_bytes {e : Ea16} (he : e.wf = true) {op : Byte}
    {sel : BitVec 3 → Option (Ea16 → Instr)} {reg : BitVec 3} {c : Ea16 → Instr}
    (h : sel reg = some c) (r : List Byte) : groupEw op sel (e.bytes reg ++ r) = .ok (c e, r) := by
  rw [groupEw, modrm_ea16 he (extension_some h)]; simp
theorem groupEbIb_bytes {e : Ea8} (he : e.wf = true) {op : Byte}
    {sel : BitVec 3 → Option (Ea8 → Byte → Instr)} {reg : BitVec 3} {c : Ea8 → Byte → Instr}
    (h : sel reg = some c) (b : Byte) (r : List Byte) :
    groupEbIb op sel (e.bytes reg ++ b :: r) = .ok (c e b, r) := by
  rw [groupEbIb, modrm_ea8 he (extension_some h)]; simp
theorem groupEwIw_bytes {e : Ea16} (he : e.wf = true) {op : Byte}
    {sel : BitVec 3 → Option (Ea16 → Word → Instr)} {reg : BitVec 3} {c : Ea16 → Word → Instr}
    (h : sel reg = some c) (w : Word) (r : List Byte) :
    groupEwIw op sel (e.bytes reg ++ (wordBytes w ++ r)) = .ok (c e w, r) := by
  rw [groupEwIw, modrm_ea16 he (extension_some h)]; simp
theorem groupEwIbs_bytes {e : Ea16} (he : e.wf = true) {op : Byte}
    {sel : BitVec 3 → Option (Ea16 → Byte → Instr)} {reg : BitVec 3} {c : Ea16 → Byte → Instr}
    (h : sel reg = some c) (b : Byte) (r : List Byte) :
    groupEwIbs op sel (e.bytes reg ++ b :: r) = .ok (c e b, r) := by
  rw [groupEwIbs, modrm_ea16 he (extension_some h)]; simp
theorem groupEbOptIb_imm {e : Ea8} (he : e.wf = true) {op : Byte}
    {sel : BitVec 3 → Option ((Ea8 → Byte → Instr) ⊕ (Ea8 → Instr))} {reg : BitVec 3}
    {c : Ea8 → Byte → Instr} (h : sel reg = some (.inl c)) (b : Byte) (r : List Byte) :
    groupEbOptIb op sel (e.bytes reg ++ b :: r) = .ok (c e b, r) := by
  rw [groupEbOptIb, modrm_ea8 he (extension_some h)]; simp
theorem groupEbOptIb_bytes {e : Ea8} (he : e.wf = true) {op : Byte}
    {sel : BitVec 3 → Option ((Ea8 → Byte → Instr) ⊕ (Ea8 → Instr))} {reg : BitVec 3}
    {c : Ea8 → Instr} (h : sel reg = some (.inr c)) (r : List Byte) :
    groupEbOptIb op sel (e.bytes reg ++ r) = .ok (c e, r) := by
  rw [groupEbOptIb, modrm_ea8 he (extension_some h)]; simp
theorem groupEwOptIw_imm {e : Ea16} (he : e.wf = true) {op : Byte}
    {sel : BitVec 3 → Option ((Ea16 → Word → Instr) ⊕ (Ea16 → Instr))} {reg : BitVec 3}
    {c : Ea16 → Word → Instr} (h : sel reg = some (.inl c)) (w : Word) (r : List Byte) :
    groupEwOptIw op sel (e.bytes reg ++ (wordBytes w ++ r)) = .ok (c e w, r) := by
  rw [groupEwOptIw, modrm_ea16 he (extension_some h)]; simp
theorem groupEwOptIw_bytes {e : Ea16} (he : e.wf = true) {op : Byte}
    {sel : BitVec 3 → Option ((Ea16 → Word → Instr) ⊕ (Ea16 → Instr))} {reg : BitVec 3}
    {c : Ea16 → Instr} (h : sel reg = some (.inr c)) (r : List Byte) :
    groupEwOptIw op sel (e.bytes reg ++ r) = .ok (c e, r) := by
  rw [groupEwOptIw, modrm_ea16 he (extension_some h)]; simp

/-! ## Rows: what a row that was read is -/

theorem modrmEbGb_ok {c : Ea8 → Reg8 → Instr} {bs r : List Byte} {i : Instr}
    (h : modrmEbGb c bs = .ok (i, r)) :
    ∃ e g, e.wf = true ∧ i = c e g ∧ bs = e.bytes g.code ++ r := by
  obtain ⟨m, t, a, rm, t', rfl, ha, hr, hk⟩ := modrm_ok h
  obtain ⟨⟨hw, hb⟩, -⟩ := readRm_some hr
  cases ha
  simp only [Except.ok.injEq, Prod.mk.injEq] at hk
  obtain ⟨rfl, rfl⟩ := hk
  exact ⟨_, _, hw, rfl, by simpa using hb⟩
theorem modrmEwGw_ok {c : Ea16 → Reg16 → Instr} {bs r : List Byte} {i : Instr}
    (h : modrmEwGw c bs = .ok (i, r)) :
    ∃ e g, e.wf = true ∧ i = c e g ∧ bs = e.bytes g.code ++ r := by
  obtain ⟨m, t, a, rm, t', rfl, ha, hr, hk⟩ := modrm_ok h
  obtain ⟨-, hw, hb⟩ := readRm_some hr
  cases ha
  simp only [Except.ok.injEq, Prod.mk.injEq] at hk
  obtain ⟨rfl, rfl⟩ := hk
  exact ⟨_, _, hw, rfl, by simpa using hb⟩
theorem modrmGbEb_ok {c : Reg8 → Ea8 → Instr} {bs r : List Byte} {i : Instr}
    (h : modrmGbEb c bs = .ok (i, r)) :
    ∃ g e, e.wf = true ∧ i = c g e ∧ bs = e.bytes g.code ++ r := by
  obtain ⟨m, t, a, rm, t', rfl, ha, hr, hk⟩ := modrm_ok h
  obtain ⟨⟨hw, hb⟩, -⟩ := readRm_some hr
  cases ha
  simp only [Except.ok.injEq, Prod.mk.injEq] at hk
  obtain ⟨rfl, rfl⟩ := hk
  exact ⟨_, _, hw, rfl, by simpa using hb⟩
theorem modrmGwEw_ok {c : Reg16 → Ea16 → Instr} {bs r : List Byte} {i : Instr}
    (h : modrmGwEw c bs = .ok (i, r)) :
    ∃ g e, e.wf = true ∧ i = c g e ∧ bs = e.bytes g.code ++ r := by
  obtain ⟨m, t, a, rm, t', rfl, ha, hr, hk⟩ := modrm_ok h
  obtain ⟨-, hw, hb⟩ := readRm_some hr
  cases ha
  simp only [Except.ok.injEq, Prod.mk.injEq] at hk
  obtain ⟨rfl, rfl⟩ := hk
  exact ⟨_, _, hw, rfl, by simpa using hb⟩

theorem segmentField_ok {op : Byte} {legal : SReg → Bool} {c : BitVec 3} {sr : SReg}
    (h : segmentField op legal c = .ok sr) : legal sr = true ∧ sr.code3 = c := by
  simp only [segmentField] at h
  cases hc : SReg.ofCode3 c with
  | none => simp [hc] at h
  | some q =>
    simp only [hc] at h
    split at h
    · cases h
      refine ⟨‹_›, ?_⟩
      revert hc
      revert c
      cases sr <;> decide
    · cases h

theorem modrmEwSw_ok {op : Byte} {c : Ea16 → SReg → Instr} {bs r : List Byte} {i : Instr}
    (h : modrmEwSw op c bs = .ok (i, r)) :
    ∃ e sr, e.wf = true ∧ i = c e sr ∧ bs = e.bytes sr.code3 ++ r := by
  obtain ⟨m, t, a, rm, t', rfl, ha, hr, hk⟩ := modrm_ok h
  obtain ⟨-, hw, hb⟩ := readRm_some hr
  simp only [Except.ok.injEq, Prod.mk.injEq] at hk
  obtain ⟨rfl, rfl⟩ := hk
  exact ⟨_, _, hw, rfl, by rw [(segmentField_ok ha).2]; exact hb⟩
theorem modrmSwEw_ok {op : Byte} {c : SReg → Ea16 → Instr} {bs r : List Byte} {i : Instr}
    (h : modrmSwEw op c bs = .ok (i, r)) :
    ∃ sr e, sr.movDest = true ∧ e.wf = true ∧ i = c sr e ∧ bs = e.bytes sr.code3 ++ r := by
  obtain ⟨m, t, a, rm, t', rfl, ha, hr, hk⟩ := modrm_ok h
  obtain ⟨-, hw, hb⟩ := readRm_some hr
  simp only [Except.ok.injEq, Prod.mk.injEq] at hk
  obtain ⟨rfl, rfl⟩ := hk
  exact ⟨_, _, (segmentField_ok ha).1, hw, rfl, by rw [(segmentField_ok ha).2]; exact hb⟩

theorem extension_ok {α : Type} {op : Byte} {sel : BitVec 3 → Option α} {reg : BitVec 3} {a : α}
    (h : extension op sel reg = .ok a) : sel reg = some a := by
  simp only [extension] at h
  cases hs : sel reg with
  | none => simp [hs] at h
  | some b => simp only [hs, Except.ok.injEq] at h; rw [h]

theorem groupEb_ok {op : Byte} {sel : BitVec 3 → Option (Ea8 → Instr)} {bs r : List Byte}
    {i : Instr} (h : groupEb op sel bs = .ok (i, r)) :
    ∃ reg c e, sel reg = some c ∧ e.wf = true ∧ i = c e ∧ bs = e.bytes reg ++ r := by
  obtain ⟨m, t, a, rm, t', rfl, ha, hr, hk⟩ := modrm_ok h
  obtain ⟨⟨hw, hb⟩, -⟩ := readRm_some hr
  simp only [Except.ok.injEq, Prod.mk.injEq] at hk
  obtain ⟨rfl, rfl⟩ := hk
  exact ⟨_, _, _, extension_ok ha, hw, rfl, hb⟩
theorem groupEw_ok {op : Byte} {sel : BitVec 3 → Option (Ea16 → Instr)} {bs r : List Byte}
    {i : Instr} (h : groupEw op sel bs = .ok (i, r)) :
    ∃ reg c e, sel reg = some c ∧ e.wf = true ∧ i = c e ∧ bs = e.bytes reg ++ r := by
  obtain ⟨m, t, a, rm, t', rfl, ha, hr, hk⟩ := modrm_ok h
  obtain ⟨-, hw, hb⟩ := readRm_some hr
  simp only [Except.ok.injEq, Prod.mk.injEq] at hk
  obtain ⟨rfl, rfl⟩ := hk
  exact ⟨_, _, _, extension_ok ha, hw, rfl, hb⟩
theorem groupEbIb_ok {op : Byte} {sel : BitVec 3 → Option (Ea8 → Byte → Instr)} {bs r : List Byte}
    {i : Instr} (h : groupEbIb op sel bs = .ok (i, r)) :
    ∃ reg c e b, sel reg = some c ∧ e.wf = true ∧ i = c e b ∧ bs = e.bytes reg ++ b :: r := by
  obtain ⟨m, t, a, rm, t', rfl, ha, hr, hk⟩ := modrm_ok h
  obtain ⟨⟨hw, hb⟩, -⟩ := readRm_some hr
  obtain ⟨b, rfl, rfl⟩ := fieldByte_ok hk
  exact ⟨_, _, _, _, extension_ok ha, hw, rfl, hb⟩
theorem groupEwIw_ok {op : Byte} {sel : BitVec 3 → Option (Ea16 → Word → Instr)} {bs r : List Byte}
    {i : Instr} (h : groupEwIw op sel bs = .ok (i, r)) :
    ∃ reg c e w, sel reg = some c ∧ e.wf = true ∧ i = c e w ∧
      bs = e.bytes reg ++ (wordBytes w ++ r) := by
  obtain ⟨m, t, a, rm, t', rfl, ha, hr, hk⟩ := modrm_ok h
  obtain ⟨-, hw, hb⟩ := readRm_some hr
  obtain ⟨w, rfl, rfl⟩ := fieldWord_ok hk
  exact ⟨_, _, _, _, extension_ok ha, hw, rfl, hb⟩
theorem groupEwIbs_ok {op : Byte} {sel : BitVec 3 → Option (Ea16 → Byte → Instr)}
    {bs r : List Byte} {i : Instr} (h : groupEwIbs op sel bs = .ok (i, r)) :
    ∃ reg c e b, sel reg = some c ∧ e.wf = true ∧ i = c e b ∧ bs = e.bytes reg ++ b :: r := by
  obtain ⟨m, t, a, rm, t', rfl, ha, hr, hk⟩ := modrm_ok h
  obtain ⟨-, hw, hb⟩ := readRm_some hr
  obtain ⟨b, rfl, rfl⟩ := fieldByte_ok hk
  exact ⟨_, _, _, _, extension_ok ha, hw, rfl, hb⟩
theorem groupEbOptIb_ok {op : Byte}
    {sel : BitVec 3 → Option ((Ea8 → Byte → Instr) ⊕ (Ea8 → Instr))} {bs r : List Byte}
    {i : Instr} (h : groupEbOptIb op sel bs = .ok (i, r)) :
    (∃ reg c e b, sel reg = some (.inl c) ∧ e.wf = true ∧ i = c e b ∧
      bs = e.bytes reg ++ b :: r) ∨
    ∃ reg c e, sel reg = some (.inr c) ∧ e.wf = true ∧ i = c e ∧ bs = e.bytes reg ++ r := by
  obtain ⟨m, t, a, rm, t', rfl, ha, hr, hk⟩ := modrm_ok h
  obtain ⟨⟨hw, hb⟩, -⟩ := readRm_some hr
  cases a with
  | inl c =>
    obtain ⟨b, rfl, rfl⟩ := fieldByte_ok hk
    exact .inl ⟨_, _, _, _, extension_ok ha, hw, rfl, hb⟩
  | inr c =>
    simp only [Except.ok.injEq, Prod.mk.injEq] at hk
    obtain ⟨rfl, rfl⟩ := hk
    exact .inr ⟨_, _, _, extension_ok ha, hw, rfl, hb⟩
theorem groupEwOptIw_ok {op : Byte}
    {sel : BitVec 3 → Option ((Ea16 → Word → Instr) ⊕ (Ea16 → Instr))} {bs r : List Byte}
    {i : Instr} (h : groupEwOptIw op sel bs = .ok (i, r)) :
    (∃ reg c e w, sel reg = some (.inl c) ∧ e.wf = true ∧ i = c e w ∧
      bs = e.bytes reg ++ (wordBytes w ++ r)) ∨
    ∃ reg c e, sel reg = some (.inr c) ∧ e.wf = true ∧ i = c e ∧ bs = e.bytes reg ++ r := by
  obtain ⟨m, t, a, rm, t', rfl, ha, hr, hk⟩ := modrm_ok h
  obtain ⟨-, hw, hb⟩ := readRm_some hr
  cases a with
  | inl c =>
    obtain ⟨b, rfl, rfl⟩ := fieldWord_ok hk
    exact .inl ⟨_, _, _, _, extension_ok ha, hw, rfl, hb⟩
  | inr c =>
    simp only [Except.ok.injEq, Prod.mk.injEq] at hk
    obtain ⟨rfl, rfl⟩ := hk
    exact .inr ⟨_, _, _, extension_ok ha, hw, rfl, hb⟩

end Sys2Proof
end

