-- ==== Sys2Proof/Laws/Devices.lean ====
section
/-! SUPPORT. The timer's and the controller's operations keep the invariant of their hidden state, and
which fields the port accesses can change. -/

namespace Sys2Proof.Machine

/-! ## One channel -/

theorem ChannelOk.setLatch {c : Channel} (h : ChannelOk c) : ChannelOk c.setLatch := by
  unfold Channel.setLatch
  split
  · exact h
  · exact h

theorem ChannelOk.program {c : Channel} (h : ChannelOk c) (a : AccessMode) (m : Nat) :
    ChannelOk ((c.setAccessMode a).setTimerMode m) := by
  obtain ⟨-, -, -, h4, h5, h6, h7⟩ := h
  unfold Channel.setTimerMode
  cases timerModeOf m with
  | none => exact ⟨nofun, nofun, rfl, h4, h5, h6, h7⟩
  | some md => exact ⟨nofun, nofun, rfl, nofun, nofun, nofun, nofun⟩

theorem ChannelOk.complete {c : Channel} (h : ChannelOk c) (lowers : Bool) :
    ChannelOk (Channel.complete lowers c) := by
  grind [ChannelOk, Channel.complete]

theorem ChannelOk.writeByte {c : Channel} (h : ChannelOk c) (lowers : Bool) (b : Byte) :
    ChannelOk (c.writeByte lowers b) := by
  obtain ⟨h1, h2, h3, h4, h5, h6, h7⟩ := h
  unfold Channel.writeByte
  split
  · refine ChannelOk.complete ?_ lowers
    exact ⟨h1, h2, h3, h4, h5, h6, h7⟩
  · refine ChannelOk.complete ?_ lowers
    exact ⟨h1, h2, h3, h4, h5, h6, h7⟩
  · next ha =>
    split
    · exact ⟨fun _ => ha, h2, rfl, h4, h5, h6, h7⟩
    · refine ChannelOk.complete ?_ lowers
      exact ⟨nofun, h2, rfl, h4, h5, h6, h7⟩

theorem ChannelOk.readByte {c : Channel} (h : ChannelOk c) : ChannelOk c.readByte.2 := by
  grind [ChannelOk, Channel.readByte]

theorem ChannelOk.putGate {c : Channel} (h : ChannelOk c) (l : Bool) : ChannelOk (c.putGate l) := by
  obtain ⟨h1, h2, h3, h4, h5, h6, h7⟩ := h
  refine ⟨h1, h2, h3, h4, ?_, h6, h7⟩
  intro ht
  simp only [Channel.putGate, Bool.or_eq_true, Bool.and_eq_true] at ht
  rcases ht with ht | ht
  · exact h5 ht
  · exact ht.2

theorem ChannelOk.setGate {c : Channel} (h : ChannelOk c) (l : Nat) : ChannelOk (c.setGate l) := by
  unfold Channel.setGate
  split
  · exact h.putGate _
  · exact h.putGate _
  · exact h

theorem ChannelOk.endStrobe {c : Channel} (h : ChannelOk c) : ChannelOk c.endStrobe := by
  unfold Channel.endStrobe
  split
  · exact h
  · exact h

theorem ChannelOk.loadTick {c : Channel} (h : ChannelOk c) : ChannelOk c.loadTick := by
  obtain ⟨h1, h2, h3, -, -, h6, h7⟩ := h
  refine ⟨h1, h2, h3, nofun, nofun, ?_, ?_⟩
  · intro hf
    simp only [Channel.loadTick] at hf
    by_cases hm : c.mode = .m3
    · exact hm
    · exact h6 (by simpa [hm] using hf)
  · intro hf
    simp only [Channel.loadTick] at hf
    by_cases hm : c.mode.strobes = true
    · exact hm
    · exact h7 (by simpa [hm] using hf)

theorem ChannelOk.countTick {c : Channel} (h : ChannelOk c) : ChannelOk c.countTick := by
  grind [ChannelOk, Channel.countTick, TimerMode.strobes]

theorem ChannelOk.tick {c : Channel} (h : ChannelOk c) : ChannelOk c.tick := by
  have he := h.endStrobe
  unfold Channel.tick
  dsimp only
  repeat' split
  · exact he
  · exact he.loadTick
  · exact he
  · exact he
  · exact he.countTick

/-! ## The timer -/

theorem PitOk.get {p : Pit} (h : PitOk p) (i : ChannelId) : ChannelOk (p.get i) := by
  cases i
  · exact h.1
  · exact h.2.1
  · exact h.2.2

theorem PitOk.set {p : Pit} (h : PitOk p) (i : ChannelId) {c : Channel} (hc : ChannelOk c) :
    PitOk (p.set i c) := by
  cases i
  · exact ⟨hc, h.2⟩
  · exact ⟨h.1, hc, h.2.2⟩
  · exact ⟨h.1, h.2.1, hc⟩

theorem PitOk.controlWord {p : Pit} (h : PitOk p) (v : Byte) : PitOk (p.controlWord v) := by
  unfold Pit.controlWord
  split
  · exact h
  · next i _ =>
    split
    · exact h.set i (h.get i).setLatch
    · exact h.set i ((h.get i).program _ _)

theorem PitOk.writeData {p : Pit} (h : PitOk p) (lowers : Bool) (i : ChannelId) (v : Byte) :
    PitOk (p.writeData lowers i v) := h.set i ((h.get i).writeByte lowers v)

theorem PitOk.readData {p : Pit} (h : PitOk p) (i : ChannelId) : PitOk (p.readData i).2 :=
  h.set i (h.get i).readByte

theorem PitOk.write61 {p : Pit} (h : PitOk p) (v : Byte) : PitOk (p.write61 v) :=
  ⟨h.1, h.2.1, h.2.2.putGate _⟩

theorem PitOk.tick {p : Pit} (h : PitOk p) : PitOk p.tick :=
  ⟨h.1.tick, h.2.1.tick, h.2.2.tick⟩

/-! ## The interrupt controller -/

theorem PicOk.of_eq {p q : Pic} (h : PicOk p) (hv : q.vectorBase = p.vectorBase)
    (hi : q.isr = p.isr) : PicOk q := by
  unfold PicOk
  rw [hv, hi]
  exact h

theorem PicOk.writeCommand {p : Pic} (h : PicOk p) (v : Byte) : PicOk (p.writeCommand v) := by
  unfold Pic.writeCommand
  split
  · exact h.of_eq rfl rfl
  · split
    · unfold Pic.ocw3
      split
      · exact h.of_eq rfl rfl
      · exact h
    · unfold Pic.ocw2
      split
      · exact ⟨h.1, .inl rfl⟩
      · exact h

theorem base_low_bits (v : Byte) : (v &&& 0xF8#8) &&& 0x07#8 = 0#8 := by
  rw [BitVec.and_assoc]
  simp

theorem PicOk.writeData {p : Pic} (h : PicOk p) (v : Byte) : PicOk (p.writeData v) := by
  unfold Pic.writeData
  split
  · exact ⟨base_low_bits v, h.2⟩
  all_goals exact h.of_eq rfl rfl

theorem PicOk.setInterrupt {p : Pic} (h : PicOk p) (irq : Nat) : PicOk (p.setInterrupt irq) := by
  unfold Pic.setInterrupt
  split
  · exact h.of_eq rfl rfl
  · exact h

theorem lowestBit_lt (b : Byte) : lowestBit b < 8 := by
  unfold lowestBit
  repeat' split
  all_goals omega

/-- An acknowledgement either does nothing, or there was none in service and one line enters
(60_exceptions.md R476). -/
theorem Pic.acknowledge_cases (p : Pic) :
    (p.intr = false ∧ p.acknowledge = (none, p)) ∨
      (p.intr = true ∧ p.isr = 0 ∧ p.acknowledge =
        (some (p.vectorBase ||| BitVec.ofNat 8 (lowestBit p.pending)),
          { p with
            irr := p.irr &&& ~~~(1#8 <<< lowestBit p.pending)
            isr := 1#8 <<< lowestBit p.pending })) := by
  cases hi : p.intr
  · exact .inl ⟨rfl, by simp [Pic.acknowledge, hi]⟩
  · have h0 : p.isr = 0 := by
      simp only [Pic.intr, Bool.and_eq_true, beq_iff_eq] at hi
      exact hi.1
    exact .inr ⟨rfl, h0, by simp [Pic.acknowledge, hi, h0]⟩

theorem PicOk.acknowledge {p : Pic} (h : PicOk p) : PicOk p.acknowledge.2 := by
  rcases p.acknowledge_cases with ⟨-, he⟩ | ⟨-, -, he⟩ <;> rw [he]
  · exact h
  · exact ⟨h.1, .inr ⟨⟨_, lowestBit_lt _⟩, rfl⟩⟩

/-! ## Ports -/

/-- A port read changes the timer only, and keeps its invariant (20_memory.md R101, R103). -/
theorem State.ioByteRead_cases (s : State) (p : Word) :
    ∃ q, (s.ioByteRead p).2 = { s with pit := q } ∧ (PitOk s.pit → PitOk q) := by
  unfold State.ioByteRead
  split
  case h_3 i _ => exact ⟨_, rfl, fun h => h.readData i⟩
  all_goals exact ⟨s.pit, rfl, id⟩

/-- A port write changes the timer or the controller only, and keeps their invariants. -/
theorem State.ioByteWrite_cases (s : State) (p : Word) (v : Byte) :
    ∃ q r, s.ioByteWrite p v = { s with pit := q, pic := r } ∧
      (PitOk s.pit → PitOk q) ∧ (PicOk s.pic → PicOk r) := by
  unfold State.ioByteWrite
  split
  · exact ⟨s.pit, _, rfl, id, fun h => h.writeCommand v⟩
  · exact ⟨s.pit, _, rfl, id, fun h => h.writeData v⟩
  · exact ⟨_, s.pic, rfl, fun h => h.writeData _ _ v, id⟩
  · exact ⟨_, s.pic, rfl, fun h => h.controlWord v, id⟩
  · exact ⟨_, s.pic, rfl, fun h => h.write61 v, id⟩
  · exact ⟨s.pit, s.pic, rfl, id, id⟩

theorem State.ioWordRead_cases (s : State) (p : Word) :
    ∃ q, (s.ioWordRead p).2 = { s with pit := q } ∧ (PitOk s.pit → PitOk q) := by
  obtain ⟨q, hq, hok⟩ := s.ioByteRead_cases p
  obtain ⟨r, hr, hok'⟩ := (s.ioByteRead p).2.ioByteRead_cases (p + 1#16)
  refine ⟨r, ?_, fun h => hok' ?_⟩
  · show ((s.ioByteRead p).2.ioByteRead (p + 1#16)).2 = _
    rw [hr, hq]
  · rw [hq]
    exact hok h

theorem State.ioWordWrite_cases (s : State) (p : Word) (v : Word) :
    ∃ q r, s.ioWordWrite p v = { s with pit := q, pic := r } ∧
      (PitOk s.pit → PitOk q) ∧ (PicOk s.pic → PicOk r) := by
  obtain ⟨q, r, hq, h1, h2⟩ := s.ioByteWrite_cases p (loByte v)
  obtain ⟨q', r', hq', h1', h2'⟩ := (s.ioByteWrite p (loByte v)).ioByteWrite_cases (p + 1#16)
    (hiByte v)
  refine ⟨q', r', ?_, fun h => h1' ?_, fun h => h2' ?_⟩
  · show (s.ioByteWrite p (loByte v)).ioByteWrite (p + 1#16) (hiByte v) = _
    rw [hq', hq]
  · rw [hq]
    exact h1 h
  · rw [hq]
    exact h2 h

end Sys2Proof.Machine
end

