-- ==== Sys2Proof/Laws/Memory.lean ====
section
/-! SUPPORT. Memory: a read sees the last write and no other, every operation keeps the canonical
form, and equal contents are equal data. -/

namespace Sys2Proof.Machine

@[simp] theorem Memory.read_nil (a : Nat) : Memory.read [] a = Memory.unlisted := rfl

theorem Memory.read_cons (b : Nat) (w : Byte) (r : Memory) (a : Nat) :
    Memory.read ((b, w) :: r) a = if a = b then w else Memory.read r a := rfl

/-- The head of a canonical list is not an unlisted byte, and the tail is canonical and above it. -/
theorem Memory.wf_cons {b : Nat} {w : Byte} {r : Memory} (h : Memory.wf ((b, w) :: r) = true) :
    w ≠ Memory.unlisted ∧ Memory.wf r = true ∧ ∀ c ∈ r, b < c.1 := by
  induction r generalizing b w with
  | nil => simp_all [Memory.wf]
  | cons c r ih =>
    obtain ⟨c1, c2⟩ := c
    simp only [Memory.wf, Bool.and_eq_true, bne_iff_ne, decide_eq_true_eq] at h
    obtain ⟨⟨hw, hlt⟩, hr⟩ := h
    refine ⟨hw, hr, ?_⟩
    intro d hd
    rcases List.mem_cons.mp hd with rfl | hd
    · exact hlt
    · exact Nat.lt_trans hlt ((ih hr).2.2 d hd)

/-- The converse of `wf_cons`. -/
theorem Memory.wf_cons_of {b : Nat} {w : Byte} {r : Memory} (hw : w ≠ Memory.unlisted)
    (hr : Memory.wf r = true) (hb : ∀ c ∈ r, b < c.1) : Memory.wf ((b, w) :: r) = true := by
  cases r with
  | nil => simpa [Memory.wf] using hw
  | cons c r =>
    obtain ⟨c1, c2⟩ := c
    simp only [Memory.wf, Bool.and_eq_true, bne_iff_ne, decide_eq_true_eq]
    exact ⟨⟨hw, hb (c1, c2) (by simp)⟩, hr⟩

/-- Below every listed address a memory reads as unlisted. -/
theorem Memory.read_below {m : Memory} {a : Nat} (h : ∀ c ∈ m, a < c.1) :
    m.read a = Memory.unlisted := by
  induction m with
  | nil => rfl
  | cons c r ih =>
    obtain ⟨b, w⟩ := c
    have hb : a < b := h (b, w) (by simp)
    rw [Memory.read_cons, if_neg (by omega)]
    exact ih fun d hd => h d (by simp [hd])

theorem Memory.read_write_ne (m : Memory) {a b : Nat} (v : Byte) (h : b ≠ a) :
    (m.write a v).read b = m.read b := by
  induction m with
  | nil => simp only [Memory.write]; split <;> simp [Memory.read_cons, h]
  | cons c r ih =>
    obtain ⟨d, w⟩ := c
    simp only [Memory.write]
    split
    · split <;> simp [Memory.read_cons, h]
    · split
      · subst_vars
        split <;> simp [Memory.read_cons, h]
      · simp [Memory.read_cons, ih]

/-- A read after a write to the same address gives the value written, in a canonical memory. -/
theorem Memory.read_write_same {m : Memory} (hm : m.wf = true) (a : Nat) (v : Byte) :
    (m.write a v).read a = v := by
  induction m with
  | nil => simp only [Memory.write]; split <;> simp_all [Memory.read_cons]
  | cons c r ih =>
    obtain ⟨d, w⟩ := c
    obtain ⟨-, hr, hd⟩ := Memory.wf_cons hm
    simp only [Memory.write]
    split
    · rename_i hlt
      split
      · rename_i hv
        rw [Memory.read_cons, if_neg (by omega), hv]
        exact Memory.read_below fun c hc => Nat.lt_trans hlt (hd c hc)
      · simp [Memory.read_cons]
    · split
      · rename_i heq
        split
        · rename_i hv
          rw [hv]
          exact Memory.read_below fun c hc => heq ▸ hd c hc
        · simp [Memory.read_cons]
      · rename_i hne
        rw [Memory.read_cons, if_neg hne]
        exact ih hr

/-- A read after a write, in one line. -/
theorem Memory.read_write {m : Memory} (hm : m.wf = true) (a b : Nat) (v : Byte) :
    (m.write a v).read b = if b = a then v else m.read b := by
  split
  · subst_vars; exact Memory.read_write_same hm _ v
  · exact Memory.read_write_ne m v ‹_›

/-- What a write lists was listed or is the written cell. -/
theorem Memory.mem_write {m : Memory} {a : Nat} {v : Byte} {c : Host.Cell}
    (h : c ∈ m.write a v) : c ∈ m ∨ c = (a, v) := by
  induction m with
  | nil =>
    simp only [Memory.write] at h
    split at h <;> simp_all
  | cons d r ih =>
    obtain ⟨d1, d2⟩ := d
    simp only [Memory.write] at h
    split at h
    · split at h
      · exact .inl h
      · rcases List.mem_cons.mp h with rfl | h
        · exact .inr rfl
        · exact .inl h
    · split at h
      · split at h
        · exact .inl (by simp [h])
        · rcases List.mem_cons.mp h with rfl | h
          · exact .inr rfl
          · exact .inl (by simp [h])
      · rcases List.mem_cons.mp h with rfl | h
        · exact .inl (by simp)
        · rcases ih h with h | h
          · exact .inl (by simp [h])
          · exact .inr h

/-- A write keeps the canonical form. -/
theorem Memory.wf_write {m : Memory} (hm : m.wf = true) (a : Nat) (v : Byte) :
    (m.write a v).wf = true := by
  induction m with
  | nil => simp only [Memory.write]; split <;> simp_all [Memory.wf]
  | cons c r ih =>
    obtain ⟨d, w⟩ := c
    obtain ⟨hw, hr, hd⟩ := Memory.wf_cons hm
    simp only [Memory.write]
    split
    · rename_i hlt
      split
      · exact hm
      · refine Memory.wf_cons_of ‹_› hm ?_
        intro e he
        rcases List.mem_cons.mp he with rfl | he
        · exact hlt
        · exact Nat.lt_trans hlt (hd e he)
    · split
      · rename_i heq
        split
        · exact hr
        · exact Memory.wf_cons_of ‹_› hr fun e he => heq ▸ hd e he
      · refine Memory.wf_cons_of hw (ih hr) ?_
        intro e he
        rcases Memory.mem_write he with he | rfl
        · exact hd e he
        · show d < a
          omega

theorem Memory.wf_load {m : Memory} (hm : m.wf = true) (a : Nat) (bs : List Byte) :
    (m.load a bs).wf = true := by
  induction bs generalizing m a with
  | nil => exact hm
  | cons v r ih => exact ih (Memory.wf_write hm a v) (a + 1)

/-- Two canonical memories with the same contents are the same list. -/
theorem Memory.eq_of_read_eq {m n : Memory} (hm : m.wf = true) (hn : n.wf = true)
    (h : ∀ a, m.read a = n.read a) : m = n := by
  induction m generalizing n with
  | nil =>
    cases n with
    | nil => rfl
    | cons c r =>
      obtain ⟨b, w⟩ := c
      have hb := h b
      simp only [Memory.read_nil, Memory.read_cons, if_true] at hb
      exact absurd hb.symm (Memory.wf_cons hn).1
  | cons c r ih =>
    obtain ⟨b, w⟩ := c
    obtain ⟨hw, hr, hb⟩ := Memory.wf_cons hm
    cases n with
    | nil =>
      have hb := h b
      simp only [Memory.read_nil, Memory.read_cons, if_true] at hb
      exact absurd hb hw
    | cons d q =>
      obtain ⟨e, x⟩ := d
      obtain ⟨hx, hq, he⟩ := Memory.wf_cons hn
      have below : ∀ (a c : Nat) (y : Byte) (p : Memory), a < c → (∀ f ∈ p, c < f.1) →
          Memory.read ((c, y) :: p) a = Memory.unlisted := by
        intro a c y p hac hp
        apply Memory.read_below
        intro f hf
        rcases List.mem_cons.mp hf with rfl | hf
        · exact hac
        · exact Nat.lt_trans hac (hp f hf)
      have hbe : b = e := by
        rcases Nat.lt_trichotomy b e with hlt | heq | hgt
        · have h1 := h b
          rw [below b e x q hlt he, Memory.read_cons, if_pos rfl] at h1
          exact absurd h1 hw
        · exact heq
        · have h1 := h e
          rw [below e b w r hgt hb, Memory.read_cons, if_pos rfl] at h1
          exact absurd h1.symm hx
      subst hbe
      have hwx : w = x := by simpa [Memory.read_cons] using h b
      subst hwx
      congr 1
      apply ih hr hq
      intro a
      by_cases hab : a = b
      · subst hab
        rw [Memory.read_below hb, Memory.read_below he]
      · simpa [Memory.read_cons, hab] using h a

/-! ## The router and the byte accesses (20_memory.md R86 to R90) -/

/-- An address that has a store has a region. -/
theorem route_of_writable {c : Config} {a : Nat} (h : writable c a = true) :
    ∃ g, route c a = some g := by
  unfold writable at h
  split at h <;> simp_all

/-- Memory is the only field a byte store changes. -/
theorem State.memWrite_eq (s : State) (a : Nat) (v : Byte) :
    s.memWrite a v = { s with mem := if writable s.cfg a then s.mem.write a v else s.mem } := by
  unfold State.memWrite; split <;> rfl

/-- Everything a byte store does, seen through byte reads. -/
theorem State.memRead_memWrite {s : State} (hm : s.mem.wf = true) (a b : Nat) (v : Byte) :
    (s.memWrite a v).memRead b =
      if b = a ∧ writable s.cfg a = true then v else s.memRead b := by
  rw [State.memWrite_eq]
  by_cases hw : writable s.cfg a = true
  · simp only [hw, if_true, and_true]
    by_cases hb : b = a
    · subst hb
      obtain ⟨g, hg⟩ := route_of_writable hw
      simp [State.memRead, hg, Memory.read_write_same hm]
    · simp [State.memRead, Memory.read_write_ne s.mem v hb, hb]
  · simp [hw, State.memRead]

theorem State.wf_memWrite {s : State} (hm : s.mem.wf = true) (a : Nat) (v : Byte) :
    (s.memWrite a v).mem.wf = true := by
  rw [State.memWrite_eq]
  split
  · exact Memory.wf_write hm a v
  · exact hm

/-- The two bytes of a word never share an address (20_memory.md R89). -/
theorem linear_succ_ne (c : Config) (seg off : Word) :
    linear c seg (off + 1#16) ≠ linear c seg off := by
  have h : (off + 1#16).toNat = (off.toNat + 1) % 65536 := by simp [BitVec.toNat_add]
  have ho := off.isLt
  unfold linear
  dsimp only
  split <;> omega

theorem State.wf_writeMem16 {s : State} (hm : s.mem.wf = true) (seg off v : Word) :
    (s.writeMem16 seg off v).mem.wf = true :=
  State.wf_memWrite (State.wf_memWrite hm _ _) _ _

theorem State.memWrite_keeps_cfg (s : State) (a : Nat) (v : Byte) : (s.memWrite a v).cfg = s.cfg := by
  rw [State.memWrite_eq]

/-- Everything a word store does, seen through byte reads (20_memory.md R89). -/
theorem State.memRead_writeMem16 {s : State} (hm : s.mem.wf = true) (seg off v : Word)
    (b : Nat) :
    (s.writeMem16 seg off v).memRead b =
      if b = linear s.cfg seg off ∧ writable s.cfg b = true then loByte v
      else if b = linear s.cfg seg (off + 1#16) ∧ writable s.cfg b = true then hiByte v
      else s.memRead b := by
  have hne := linear_succ_ne s.cfg seg off
  simp only [State.writeMem16, State.writeMem8]
  rw [State.memRead_memWrite (State.wf_memWrite hm _ _), State.memWrite_keeps_cfg,
    State.memRead_memWrite hm]
  by_cases h1 : b = linear s.cfg seg off
  · subst h1
    simp [hne.symm]
  · by_cases h2 : b = linear s.cfg seg (off + 1#16)
    · subst h2
      simp [hne]
    · simp [h1, h2]

end Sys2Proof.Machine
end

