-- ==== Sys2Proof/Laws/Regs.lean ====
section
/-! SUPPORT. The register file: a read after a write, for every kind of register (10_state.md R30 to
R33). -/

namespace Sys2Proof.Machine

@[simp] theorem Regs.r16_setR16 (g : Regs) (r q : Reg16) (v : Word) :
    (g.setR16 r v).r16 q = if q = r then v else g.r16 q := by
  cases r <;> cases q <;> rfl

@[simp] theorem Regs.sreg_setR16 (g : Regs) (r : Reg16) (q : SReg) (v : Word) :
    (g.setR16 r v).sreg q = g.sreg q := by cases r <;> rfl

@[simp] theorem Regs.ip_setR16 (g : Regs) (r : Reg16) (v : Word) : (g.setR16 r v).ip = g.ip := by
  cases r <;> rfl

@[simp] theorem Regs.cs_setR16 (g : Regs) (r : Reg16) (v : Word) : (g.setR16 r v).cs = g.cs := by
  cases r <;> rfl

@[simp] theorem Regs.flags_setR16 (g : Regs) (r : Reg16) (v : Word) :
    (g.setR16 r v).flags = g.flags := by cases r <;> rfl

@[simp] theorem Regs.r16_setSreg (g : Regs) (r : SReg) (q : Reg16) (v : Word) :
    (g.setSreg r v).r16 q = g.r16 q := by cases r <;> rfl

@[simp] theorem Regs.sreg_setSreg (g : Regs) (r q : SReg) (v : Word) :
    (g.setSreg r v).sreg q = if q = r then v else g.sreg q := by
  cases r <;> cases q <;> rfl

@[simp] theorem Regs.ip_setSreg (g : Regs) (r : SReg) (v : Word) : (g.setSreg r v).ip = g.ip := by
  cases r <;> rfl

@[simp] theorem Regs.flags_setSreg (g : Regs) (r : SReg) (v : Word) :
    (g.setSreg r v).flags = g.flags := by cases r <;> rfl

theorem Regs.cs_eq (g : Regs) : g.cs = g.sreg .cs := rfl

/-- Writing a register's own value back changes nothing. -/
@[simp] theorem Regs.setR16_r16 (g : Regs) (r : Reg16) : g.setR16 r (g.r16 r) = g := by
  cases r <;> rfl

/-- A byte register reads what was written to it; every other keeps its value (10_state.md R31). -/
@[simp] theorem Regs.r8_setR8 (g : Regs) (r q : Reg8) (v : Byte) :
    (g.setR8 r v).r8 q = if q = r then v else g.r8 q := by
  cases r <;> cases q <;> simp [Regs.r8, Regs.setR8, Reg8.isHigh, Reg8.parent]

/-- A byte write changes one half of one 16-bit register (10_state.md R31). -/
theorem Regs.r16_setR8 (g : Regs) (r : Reg8) (q : Reg16) (v : Byte) :
    (g.setR8 r v).r16 q =
      if q = r.parent then
        if r.isHigh then wordOf (loByte (g.r16 q)) v else wordOf v (hiByte (g.r16 q))
      else g.r16 q := by
  by_cases h : q = r.parent
  · subst h; simp [Regs.setR8]
  · simp [Regs.setR8, h]

@[simp] theorem Regs.sreg_setR8 (g : Regs) (r : Reg8) (q : SReg) (v : Byte) :
    (g.setR8 r v).sreg q = g.sreg q := by simp [Regs.setR8]
@[simp] theorem Regs.ip_setR8 (g : Regs) (r : Reg8) (v : Byte) : (g.setR8 r v).ip = g.ip := by
  simp [Regs.setR8]
@[simp] theorem Regs.flags_setR8 (g : Regs) (r : Reg8) (v : Byte) :
    (g.setR8 r v).flags = g.flags := by simp [Regs.setR8]

/-- The slots are numbered 0 to 13 without repetition (10_state.md R30). -/
theorem Slot.code_inj {a b : Slot} (h : a.code = b.code) : a = b := by
  cases a with
  | gen r => cases b with
    | gen q => revert h; cases r <;> cases q <;> decide
    | seg q => revert h; cases r <;> cases q <;> decide
    | ip => revert h; cases r <;> decide
    | flags => revert h; cases r <;> decide
  | seg r => cases b with
    | gen q => revert h; cases r <;> cases q <;> decide
    | seg q => revert h; cases r <;> cases q <;> decide
    | ip => revert h; cases r <;> decide
    | flags => revert h; cases r <;> decide
  | ip => cases b with
    | gen q => revert h; cases q <;> decide
    | seg q => revert h; cases q <;> decide
    | ip => rfl
    | flags => revert h; decide
  | flags => cases b with
    | gen q => revert h; cases q <;> decide
    | seg q => revert h; cases q <;> decide
    | ip => revert h; decide
    | flags => rfl

/-- Two register files with the same fourteen slots are the same. -/
theorem Regs.ext_slot {g k : Regs} (h : ∀ q, g.slot q = k.slot q) : g = k := by
  obtain ⟨⟩ := g
  obtain ⟨⟩ := k
  have h1 := fun r => h (.gen r)
  have h2 := fun r => h (.seg r)
  simp only [Regs.mk.injEq]
  exact ⟨h1 .ax, h1 .cx, h1 .dx, h1 .bx, h1 .sp, h1 .bp, h1 .si, h1 .di,
    h2 .es, h2 .cs, h2 .ss, h2 .ds, h .ip, h .flags⟩

end Sys2Proof.Machine
end

