-- ==== Sys2Proof/Laws/State.lean ====
section
/-! SUPPORT. What each shared operation leaves alone: one lemma per operation and per field it does
not write, and IP and `next_ip` where it writes registers but not IP. -/

namespace Sys2Proof.Machine

@[simp] theorem State.r16_eq (s : State) (r : Reg16) : s.r16 r = s.regs.r16 r := rfl
@[simp] theorem State.r8_eq (s : State) (r : Reg8) : s.r8 r = s.regs.r8 r := rfl
@[simp] theorem State.sreg_eq (s : State) (r : SReg) : s.sreg r = s.regs.sreg r := rfl
@[simp] theorem State.flags_eq (s : State) : s.flags = s.regs.flags := rfl
@[simp] theorem State.flag_eq (s : State) (f : Flag) : s.flag f = getFlag f s.regs.flags := rfl

/-! ### setR16 -/

@[simp] theorem State.log_setR16 (s : State) (r : Reg16) (v : Word) :
    (s.setR16 r v).log = s.log := rfl
@[simp] theorem State.faultStatus_setR16 (s : State) (r : Reg16) (v : Word) :
    (s.setR16 r v).faultStatus = s.faultStatus := rfl
@[simp] theorem State.pit_setR16 (s : State) (r : Reg16) (v : Word) :
    (s.setR16 r v).pit = s.pit := rfl
@[simp] theorem State.pic_setR16 (s : State) (r : Reg16) (v : Word) :
    (s.setR16 r v).pic = s.pic := rfl
@[simp] theorem State.mem_setR16 (s : State) (r : Reg16) (v : Word) :
    (s.setR16 r v).mem = s.mem := rfl
@[simp] theorem State.cfg_setR16 (s : State) (r : Reg16) (v : Word) :
    (s.setR16 r v).cfg = s.cfg := rfl
@[simp] theorem State.segOvr_setR16 (s : State) (r : Reg16) (v : Word) :
    (s.setR16 r v).segOvr = s.segOvr := rfl
@[simp] theorem State.prefixLen_setR16 (s : State) (r : Reg16) (v : Word) :
    (s.setR16 r v).prefixLen = s.prefixLen := rfl
@[simp] theorem State.draws_setR16 (s : State) (r : Reg16) (v : Word) :
    (s.setR16 r v).draws = s.draws := rfl
@[simp] theorem State.schedule_setR16 (s : State) (r : Reg16) (v : Word) :
    (s.setR16 r v).schedule = s.schedule := rfl
@[simp] theorem State.hostReply_setR16 (s : State) (r : Reg16) (v : Word) :
    (s.setR16 r v).hostReply = s.hostReply := rfl
@[simp] theorem State.ip_setR16 (s : State) (r : Reg16) (v : Word) :
    (s.setR16 r v).regs.ip = s.regs.ip := by
  cases r <;> rfl
@[simp] theorem State.nextIp_setR16 (s : State) (r : Reg16) (v : Word) (j : Instr) :
    (s.setR16 r v).nextIp j = s.nextIp j := by
  simp [State.nextIp]

/-! ### setR8 -/

@[simp] theorem State.log_setR8 (s : State) (r : Reg8) (v : Byte) : (s.setR8 r v).log = s.log := rfl
@[simp] theorem State.faultStatus_setR8 (s : State) (r : Reg8) (v : Byte) :
    (s.setR8 r v).faultStatus = s.faultStatus := rfl
@[simp] theorem State.pit_setR8 (s : State) (r : Reg8) (v : Byte) : (s.setR8 r v).pit = s.pit := rfl
@[simp] theorem State.pic_setR8 (s : State) (r : Reg8) (v : Byte) : (s.setR8 r v).pic = s.pic := rfl
@[simp] theorem State.mem_setR8 (s : State) (r : Reg8) (v : Byte) : (s.setR8 r v).mem = s.mem := rfl
@[simp] theorem State.cfg_setR8 (s : State) (r : Reg8) (v : Byte) : (s.setR8 r v).cfg = s.cfg := rfl
@[simp] theorem State.segOvr_setR8 (s : State) (r : Reg8) (v : Byte) :
    (s.setR8 r v).segOvr = s.segOvr := rfl
@[simp] theorem State.prefixLen_setR8 (s : State) (r : Reg8) (v : Byte) :
    (s.setR8 r v).prefixLen = s.prefixLen := rfl
@[simp] theorem State.draws_setR8 (s : State) (r : Reg8) (v : Byte) :
    (s.setR8 r v).draws = s.draws := rfl
@[simp] theorem State.schedule_setR8 (s : State) (r : Reg8) (v : Byte) :
    (s.setR8 r v).schedule = s.schedule := rfl
@[simp] theorem State.hostReply_setR8 (s : State) (r : Reg8) (v : Byte) :
    (s.setR8 r v).hostReply = s.hostReply := rfl
@[simp] theorem State.ip_setR8 (s : State) (r : Reg8) (v : Byte) :
    (s.setR8 r v).regs.ip = s.regs.ip := by
  cases r <;> rfl
@[simp] theorem State.nextIp_setR8 (s : State) (r : Reg8) (v : Byte) (j : Instr) :
    (s.setR8 r v).nextIp j = s.nextIp j := by
  simp [State.nextIp]

/-! ### setSreg -/

@[simp] theorem State.log_setSreg (s : State) (r : SReg) (v : Word) :
    (s.setSreg r v).log = s.log := rfl
@[simp] theorem State.faultStatus_setSreg (s : State) (r : SReg) (v : Word) :
    (s.setSreg r v).faultStatus = s.faultStatus := rfl
@[simp] theorem State.pit_setSreg (s : State) (r : SReg) (v : Word) :
    (s.setSreg r v).pit = s.pit := rfl
@[simp] theorem State.pic_setSreg (s : State) (r : SReg) (v : Word) :
    (s.setSreg r v).pic = s.pic := rfl
@[simp] theorem State.mem_setSreg (s : State) (r : SReg) (v : Word) :
    (s.setSreg r v).mem = s.mem := rfl
@[simp] theorem State.cfg_setSreg (s : State) (r : SReg) (v : Word) :
    (s.setSreg r v).cfg = s.cfg := rfl
@[simp] theorem State.segOvr_setSreg (s : State) (r : SReg) (v : Word) :
    (s.setSreg r v).segOvr = s.segOvr := rfl
@[simp] theorem State.prefixLen_setSreg (s : State) (r : SReg) (v : Word) :
    (s.setSreg r v).prefixLen = s.prefixLen := rfl
@[simp] theorem State.draws_setSreg (s : State) (r : SReg) (v : Word) :
    (s.setSreg r v).draws = s.draws := rfl
@[simp] theorem State.schedule_setSreg (s : State) (r : SReg) (v : Word) :
    (s.setSreg r v).schedule = s.schedule := rfl
@[simp] theorem State.hostReply_setSreg (s : State) (r : SReg) (v : Word) :
    (s.setSreg r v).hostReply = s.hostReply := rfl
@[simp] theorem State.ip_setSreg (s : State) (r : SReg) (v : Word) :
    (s.setSreg r v).regs.ip = s.regs.ip := by
  cases r <;> rfl
@[simp] theorem State.nextIp_setSreg (s : State) (r : SReg) (v : Word) (j : Instr) :
    (s.setSreg r v).nextIp j = s.nextIp j := by
  simp [State.nextIp]

/-! ### setIp -/

@[simp] theorem State.log_setIp (s : State) (v : Word) : (s.setIp v).log = s.log := rfl
@[simp] theorem State.faultStatus_setIp (s : State) (v : Word) :
    (s.setIp v).faultStatus = s.faultStatus := rfl
@[simp] theorem State.pit_setIp (s : State) (v : Word) : (s.setIp v).pit = s.pit := rfl
@[simp] theorem State.pic_setIp (s : State) (v : Word) : (s.setIp v).pic = s.pic := rfl
@[simp] theorem State.mem_setIp (s : State) (v : Word) : (s.setIp v).mem = s.mem := rfl
@[simp] theorem State.cfg_setIp (s : State) (v : Word) : (s.setIp v).cfg = s.cfg := rfl
@[simp] theorem State.segOvr_setIp (s : State) (v : Word) : (s.setIp v).segOvr = s.segOvr := rfl
@[simp] theorem State.prefixLen_setIp (s : State) (v : Word) :
    (s.setIp v).prefixLen = s.prefixLen := rfl
@[simp] theorem State.draws_setIp (s : State) (v : Word) : (s.setIp v).draws = s.draws := rfl
@[simp] theorem State.schedule_setIp (s : State) (v : Word) :
    (s.setIp v).schedule = s.schedule := rfl
@[simp] theorem State.hostReply_setIp (s : State) (v : Word) :
    (s.setIp v).hostReply = s.hostReply := rfl

/-! ### setFlags -/

@[simp] theorem State.log_setFlags (s : State) (v : Word) : (s.setFlags v).log = s.log := rfl
@[simp] theorem State.faultStatus_setFlags (s : State) (v : Word) :
    (s.setFlags v).faultStatus = s.faultStatus := rfl
@[simp] theorem State.pit_setFlags (s : State) (v : Word) : (s.setFlags v).pit = s.pit := rfl
@[simp] theorem State.pic_setFlags (s : State) (v : Word) : (s.setFlags v).pic = s.pic := rfl
@[simp] theorem State.mem_setFlags (s : State) (v : Word) : (s.setFlags v).mem = s.mem := rfl
@[simp] theorem State.cfg_setFlags (s : State) (v : Word) : (s.setFlags v).cfg = s.cfg := rfl
@[simp] theorem State.segOvr_setFlags (s : State) (v : Word) :
    (s.setFlags v).segOvr = s.segOvr := rfl
@[simp] theorem State.prefixLen_setFlags (s : State) (v : Word) :
    (s.setFlags v).prefixLen = s.prefixLen := rfl
@[simp] theorem State.draws_setFlags (s : State) (v : Word) : (s.setFlags v).draws = s.draws := rfl
@[simp] theorem State.schedule_setFlags (s : State) (v : Word) :
    (s.setFlags v).schedule = s.schedule := rfl
@[simp] theorem State.hostReply_setFlags (s : State) (v : Word) :
    (s.setFlags v).hostReply = s.hostReply := rfl
@[simp] theorem State.ip_setFlags (s : State) (v : Word) : (s.setFlags v).regs.ip = s.regs.ip := rfl
@[simp] theorem State.nextIp_setFlags (s : State) (v : Word) (j : Instr) :
    (s.setFlags v).nextIp j = s.nextIp j := by
  simp [State.nextIp]

/-! ### setFlag -/

@[simp] theorem State.log_setFlag (s : State) (f : Flag) (b : Bool) :
    (s.setFlag f b).log = s.log := rfl
@[simp] theorem State.faultStatus_setFlag (s : State) (f : Flag) (b : Bool) :
    (s.setFlag f b).faultStatus = s.faultStatus := rfl
@[simp] theorem State.pit_setFlag (s : State) (f : Flag) (b : Bool) :
    (s.setFlag f b).pit = s.pit := rfl
@[simp] theorem State.pic_setFlag (s : State) (f : Flag) (b : Bool) :
    (s.setFlag f b).pic = s.pic := rfl
@[simp] theorem State.mem_setFlag (s : State) (f : Flag) (b : Bool) :
    (s.setFlag f b).mem = s.mem := rfl
@[simp] theorem State.cfg_setFlag (s : State) (f : Flag) (b : Bool) :
    (s.setFlag f b).cfg = s.cfg := rfl
@[simp] theorem State.segOvr_setFlag (s : State) (f : Flag) (b : Bool) :
    (s.setFlag f b).segOvr = s.segOvr := rfl
@[simp] theorem State.prefixLen_setFlag (s : State) (f : Flag) (b : Bool) :
    (s.setFlag f b).prefixLen = s.prefixLen := rfl
@[simp] theorem State.draws_setFlag (s : State) (f : Flag) (b : Bool) :
    (s.setFlag f b).draws = s.draws := rfl
@[simp] theorem State.schedule_setFlag (s : State) (f : Flag) (b : Bool) :
    (s.setFlag f b).schedule = s.schedule := rfl
@[simp] theorem State.hostReply_setFlag (s : State) (f : Flag) (b : Bool) :
    (s.setFlag f b).hostReply = s.hostReply := rfl
@[simp] theorem State.ip_setFlag (s : State) (f : Flag) (b : Bool) :
    (s.setFlag f b).regs.ip = s.regs.ip := rfl
@[simp] theorem State.nextIp_setFlag (s : State) (f : Flag) (b : Bool) (j : Instr) :
    (s.setFlag f b).nextIp j = s.nextIp j := by
  simp [State.nextIp]

/-! ### advance -/

@[simp] theorem State.log_advance (s : State) (i : Instr) : (s.advance i).log = s.log := rfl
@[simp] theorem State.faultStatus_advance (s : State) (i : Instr) :
    (s.advance i).faultStatus = s.faultStatus := rfl
@[simp] theorem State.pit_advance (s : State) (i : Instr) : (s.advance i).pit = s.pit := rfl
@[simp] theorem State.pic_advance (s : State) (i : Instr) : (s.advance i).pic = s.pic := rfl
@[simp] theorem State.mem_advance (s : State) (i : Instr) : (s.advance i).mem = s.mem := rfl
@[simp] theorem State.cfg_advance (s : State) (i : Instr) : (s.advance i).cfg = s.cfg := rfl
@[simp] theorem State.segOvr_advance (s : State) (i : Instr) :
    (s.advance i).segOvr = s.segOvr := rfl
@[simp] theorem State.prefixLen_advance (s : State) (i : Instr) :
    (s.advance i).prefixLen = s.prefixLen := rfl
@[simp] theorem State.draws_advance (s : State) (i : Instr) : (s.advance i).draws = s.draws := rfl
@[simp] theorem State.schedule_advance (s : State) (i : Instr) :
    (s.advance i).schedule = s.schedule := rfl
@[simp] theorem State.hostReply_advance (s : State) (i : Instr) :
    (s.advance i).hostReply = s.hostReply := rfl

/-! ### jumpIf -/

@[simp] theorem State.log_jumpIf (s : State) (b : Bool) (i : Instr) (d : Byte) :
    (s.jumpIf b i d).log = s.log := by
  cases b <;> rfl
@[simp] theorem State.faultStatus_jumpIf (s : State) (b : Bool) (i : Instr) (d : Byte) :
    (s.jumpIf b i d).faultStatus = s.faultStatus := by
  cases b <;> rfl
@[simp] theorem State.pit_jumpIf (s : State) (b : Bool) (i : Instr) (d : Byte) :
    (s.jumpIf b i d).pit = s.pit := by
  cases b <;> rfl
@[simp] theorem State.pic_jumpIf (s : State) (b : Bool) (i : Instr) (d : Byte) :
    (s.jumpIf b i d).pic = s.pic := by
  cases b <;> rfl
@[simp] theorem State.mem_jumpIf (s : State) (b : Bool) (i : Instr) (d : Byte) :
    (s.jumpIf b i d).mem = s.mem := by
  cases b <;> rfl
@[simp] theorem State.cfg_jumpIf (s : State) (b : Bool) (i : Instr) (d : Byte) :
    (s.jumpIf b i d).cfg = s.cfg := by
  cases b <;> rfl
@[simp] theorem State.segOvr_jumpIf (s : State) (b : Bool) (i : Instr) (d : Byte) :
    (s.jumpIf b i d).segOvr = s.segOvr := by
  cases b <;> rfl
@[simp] theorem State.prefixLen_jumpIf (s : State) (b : Bool) (i : Instr) (d : Byte) :
    (s.jumpIf b i d).prefixLen = s.prefixLen := by
  cases b <;> rfl
@[simp] theorem State.draws_jumpIf (s : State) (b : Bool) (i : Instr) (d : Byte) :
    (s.jumpIf b i d).draws = s.draws := by
  cases b <;> rfl
@[simp] theorem State.schedule_jumpIf (s : State) (b : Bool) (i : Instr) (d : Byte) :
    (s.jumpIf b i d).schedule = s.schedule := by
  cases b <;> rfl
@[simp] theorem State.hostReply_jumpIf (s : State) (b : Bool) (i : Instr) (d : Byte) :
    (s.jumpIf b i d).hostReply = s.hostReply := by
  cases b <;> rfl

/-! ### countCx -/

@[simp] theorem State.log_countCx (s : State) : s.countCx.log = s.log := rfl
@[simp] theorem State.faultStatus_countCx (s : State) : s.countCx.faultStatus = s.faultStatus := rfl
@[simp] theorem State.pit_countCx (s : State) : s.countCx.pit = s.pit := rfl
@[simp] theorem State.pic_countCx (s : State) : s.countCx.pic = s.pic := rfl
@[simp] theorem State.mem_countCx (s : State) : s.countCx.mem = s.mem := rfl
@[simp] theorem State.cfg_countCx (s : State) : s.countCx.cfg = s.cfg := rfl
@[simp] theorem State.segOvr_countCx (s : State) : s.countCx.segOvr = s.segOvr := rfl
@[simp] theorem State.prefixLen_countCx (s : State) : s.countCx.prefixLen = s.prefixLen := rfl
@[simp] theorem State.draws_countCx (s : State) : s.countCx.draws = s.draws := rfl
@[simp] theorem State.schedule_countCx (s : State) : s.countCx.schedule = s.schedule := rfl
@[simp] theorem State.hostReply_countCx (s : State) : s.countCx.hostReply = s.hostReply := rfl
@[simp] theorem State.ip_countCx (s : State) : s.countCx.regs.ip = s.regs.ip := rfl
@[simp] theorem State.nextIp_countCx (s : State) (j : Instr) :
    s.countCx.nextIp j = s.nextIp j := by
  simp [State.nextIp]

/-! ### test -/

@[simp] theorem State.log_test (s : State) {w : Nat} (a b : BitVec w) :
    (s.test a b).log = s.log := rfl
@[simp] theorem State.faultStatus_test (s : State) {w : Nat} (a b : BitVec w) :
    (s.test a b).faultStatus = s.faultStatus := rfl
@[simp] theorem State.pit_test (s : State) {w : Nat} (a b : BitVec w) :
    (s.test a b).pit = s.pit := rfl
@[simp] theorem State.pic_test (s : State) {w : Nat} (a b : BitVec w) :
    (s.test a b).pic = s.pic := rfl
@[simp] theorem State.mem_test (s : State) {w : Nat} (a b : BitVec w) :
    (s.test a b).mem = s.mem := rfl
@[simp] theorem State.cfg_test (s : State) {w : Nat} (a b : BitVec w) :
    (s.test a b).cfg = s.cfg := rfl
@[simp] theorem State.segOvr_test (s : State) {w : Nat} (a b : BitVec w) :
    (s.test a b).segOvr = s.segOvr := rfl
@[simp] theorem State.prefixLen_test (s : State) {w : Nat} (a b : BitVec w) :
    (s.test a b).prefixLen = s.prefixLen := rfl
@[simp] theorem State.draws_test (s : State) {w : Nat} (a b : BitVec w) :
    (s.test a b).draws = s.draws := rfl
@[simp] theorem State.schedule_test (s : State) {w : Nat} (a b : BitVec w) :
    (s.test a b).schedule = s.schedule := rfl
@[simp] theorem State.hostReply_test (s : State) {w : Nat} (a b : BitVec w) :
    (s.test a b).hostReply = s.hostReply := rfl
@[simp] theorem State.ip_test (s : State) {w : Nat} (a b : BitVec w) :
    (s.test a b).regs.ip = s.regs.ip := rfl
@[simp] theorem State.nextIp_test (s : State) {w : Nat} (a b : BitVec w) (j : Instr) :
    (s.test a b).nextIp j = s.nextIp j := by
  simp [State.nextIp]

/-! ### pop -/

@[simp] theorem State.log_pop (s : State) : s.pop.2.log = s.log := rfl
@[simp] theorem State.faultStatus_pop (s : State) : s.pop.2.faultStatus = s.faultStatus := rfl
@[simp] theorem State.pit_pop (s : State) : s.pop.2.pit = s.pit := rfl
@[simp] theorem State.pic_pop (s : State) : s.pop.2.pic = s.pic := rfl
@[simp] theorem State.mem_pop (s : State) : s.pop.2.mem = s.mem := rfl
@[simp] theorem State.cfg_pop (s : State) : s.pop.2.cfg = s.cfg := rfl
@[simp] theorem State.segOvr_pop (s : State) : s.pop.2.segOvr = s.segOvr := rfl
@[simp] theorem State.prefixLen_pop (s : State) : s.pop.2.prefixLen = s.prefixLen := rfl
@[simp] theorem State.draws_pop (s : State) : s.pop.2.draws = s.draws := rfl
@[simp] theorem State.schedule_pop (s : State) : s.pop.2.schedule = s.schedule := rfl
@[simp] theorem State.hostReply_pop (s : State) : s.pop.2.hostReply = s.hostReply := rfl
@[simp] theorem State.ip_pop (s : State) : s.pop.2.regs.ip = s.regs.ip := rfl
@[simp] theorem State.nextIp_pop (s : State) (j : Instr) :
    s.pop.2.nextIp j = s.nextIp j := by
  simp [State.nextIp]

/-! ### interruptReturn -/

@[simp] theorem State.log_interruptReturn (s : State) : s.interruptReturn.log = s.log := by
  simp [State.interruptReturn]
@[simp] theorem State.faultStatus_interruptReturn (s : State) :
    s.interruptReturn.faultStatus = s.faultStatus := by
  simp [State.interruptReturn]
@[simp] theorem State.pit_interruptReturn (s : State) : s.interruptReturn.pit = s.pit := by
  simp [State.interruptReturn]
@[simp] theorem State.pic_interruptReturn (s : State) : s.interruptReturn.pic = s.pic := by
  simp [State.interruptReturn]
@[simp] theorem State.mem_interruptReturn (s : State) : s.interruptReturn.mem = s.mem := by
  simp [State.interruptReturn]
@[simp] theorem State.cfg_interruptReturn (s : State) : s.interruptReturn.cfg = s.cfg := by
  simp [State.interruptReturn]
@[simp] theorem State.segOvr_interruptReturn (s : State) : s.interruptReturn.segOvr = s.segOvr := by
  simp [State.interruptReturn]
@[simp] theorem State.prefixLen_interruptReturn (s : State) :
    s.interruptReturn.prefixLen = s.prefixLen := by
  simp [State.interruptReturn]
@[simp] theorem State.draws_interruptReturn (s : State) : s.interruptReturn.draws = s.draws := by
  simp [State.interruptReturn]
@[simp] theorem State.schedule_interruptReturn (s : State) :
    s.interruptReturn.schedule = s.schedule := by
  simp [State.interruptReturn]
@[simp] theorem State.hostReply_interruptReturn (s : State) :
    s.interruptReturn.hostReply = s.hostReply := by
  simp [State.interruptReturn]

/-! ### memWrite -/

@[simp] theorem State.regs_memWrite (s : State) (a : Nat) (v : Byte) :
    (s.memWrite a v).regs = s.regs := by
  unfold State.memWrite; split <;> rfl
@[simp] theorem State.log_memWrite (s : State) (a : Nat) (v : Byte) :
    (s.memWrite a v).log = s.log := by
  unfold State.memWrite; split <;> rfl
@[simp] theorem State.faultStatus_memWrite (s : State) (a : Nat) (v : Byte) :
    (s.memWrite a v).faultStatus = s.faultStatus := by
  unfold State.memWrite; split <;> rfl
@[simp] theorem State.pit_memWrite (s : State) (a : Nat) (v : Byte) :
    (s.memWrite a v).pit = s.pit := by
  unfold State.memWrite; split <;> rfl
@[simp] theorem State.pic_memWrite (s : State) (a : Nat) (v : Byte) :
    (s.memWrite a v).pic = s.pic := by
  unfold State.memWrite; split <;> rfl
@[simp] theorem State.cfg_memWrite (s : State) (a : Nat) (v : Byte) :
    (s.memWrite a v).cfg = s.cfg := by
  unfold State.memWrite; split <;> rfl
@[simp] theorem State.segOvr_memWrite (s : State) (a : Nat) (v : Byte) :
    (s.memWrite a v).segOvr = s.segOvr := by
  unfold State.memWrite; split <;> rfl
@[simp] theorem State.prefixLen_memWrite (s : State) (a : Nat) (v : Byte) :
    (s.memWrite a v).prefixLen = s.prefixLen := by
  unfold State.memWrite; split <;> rfl
@[simp] theorem State.draws_memWrite (s : State) (a : Nat) (v : Byte) :
    (s.memWrite a v).draws = s.draws := by
  unfold State.memWrite; split <;> rfl
@[simp] theorem State.schedule_memWrite (s : State) (a : Nat) (v : Byte) :
    (s.memWrite a v).schedule = s.schedule := by
  unfold State.memWrite; split <;> rfl
@[simp] theorem State.hostReply_memWrite (s : State) (a : Nat) (v : Byte) :
    (s.memWrite a v).hostReply = s.hostReply := by
  unfold State.memWrite; split <;> rfl
@[simp] theorem State.nextIp_memWrite (s : State) (a : Nat) (v : Byte) (j : Instr) :
    (s.memWrite a v).nextIp j = s.nextIp j := by
  simp [State.nextIp]

/-! ### writeMem8 -/

@[simp] theorem State.regs_writeMem8 (s : State) (g o : Word) (v : Byte) :
    (s.writeMem8 g o v).regs = s.regs := by
  simp [State.writeMem8]
@[simp] theorem State.log_writeMem8 (s : State) (g o : Word) (v : Byte) :
    (s.writeMem8 g o v).log = s.log := by
  simp [State.writeMem8]
@[simp] theorem State.faultStatus_writeMem8 (s : State) (g o : Word) (v : Byte) :
    (s.writeMem8 g o v).faultStatus = s.faultStatus := by
  simp [State.writeMem8]
@[simp] theorem State.pit_writeMem8 (s : State) (g o : Word) (v : Byte) :
    (s.writeMem8 g o v).pit = s.pit := by
  simp [State.writeMem8]
@[simp] theorem State.pic_writeMem8 (s : State) (g o : Word) (v : Byte) :
    (s.writeMem8 g o v).pic = s.pic := by
  simp [State.writeMem8]
@[simp] theorem State.cfg_writeMem8 (s : State) (g o : Word) (v : Byte) :
    (s.writeMem8 g o v).cfg = s.cfg := by
  simp [State.writeMem8]
@[simp] theorem State.segOvr_writeMem8 (s : State) (g o : Word) (v : Byte) :
    (s.writeMem8 g o v).segOvr = s.segOvr := by
  simp [State.writeMem8]
@[simp] theorem State.prefixLen_writeMem8 (s : State) (g o : Word) (v : Byte) :
    (s.writeMem8 g o v).prefixLen = s.prefixLen := by
  simp [State.writeMem8]
@[simp] theorem State.draws_writeMem8 (s : State) (g o : Word) (v : Byte) :
    (s.writeMem8 g o v).draws = s.draws := by
  simp [State.writeMem8]
@[simp] theorem State.schedule_writeMem8 (s : State) (g o : Word) (v : Byte) :
    (s.writeMem8 g o v).schedule = s.schedule := by
  simp [State.writeMem8]
@[simp] theorem State.hostReply_writeMem8 (s : State) (g o : Word) (v : Byte) :
    (s.writeMem8 g o v).hostReply = s.hostReply := by
  simp [State.writeMem8]
@[simp] theorem State.nextIp_writeMem8 (s : State) (g o : Word) (v : Byte) (j : Instr) :
    (s.writeMem8 g o v).nextIp j = s.nextIp j := by
  simp [State.nextIp]

/-! ### writeMem16 -/

@[simp] theorem State.regs_writeMem16 (s : State) (g o : Word) (v : Word) :
    (s.writeMem16 g o v).regs = s.regs := by
  simp [State.writeMem16]
@[simp] theorem State.log_writeMem16 (s : State) (g o : Word) (v : Word) :
    (s.writeMem16 g o v).log = s.log := by
  simp [State.writeMem16]
@[simp] theorem State.faultStatus_writeMem16 (s : State) (g o : Word) (v : Word) :
    (s.writeMem16 g o v).faultStatus = s.faultStatus := by
  simp [State.writeMem16]
@[simp] theorem State.pit_writeMem16 (s : State) (g o : Word) (v : Word) :
    (s.writeMem16 g o v).pit = s.pit := by
  simp [State.writeMem16]
@[simp] theorem State.pic_writeMem16 (s : State) (g o : Word) (v : Word) :
    (s.writeMem16 g o v).pic = s.pic := by
  simp [State.writeMem16]
@[simp] theorem State.cfg_writeMem16 (s : State) (g o : Word) (v : Word) :
    (s.writeMem16 g o v).cfg = s.cfg := by
  simp [State.writeMem16]
@[simp] theorem State.segOvr_writeMem16 (s : State) (g o : Word) (v : Word) :
    (s.writeMem16 g o v).segOvr = s.segOvr := by
  simp [State.writeMem16]
@[simp] theorem State.prefixLen_writeMem16 (s : State) (g o : Word) (v : Word) :
    (s.writeMem16 g o v).prefixLen = s.prefixLen := by
  simp [State.writeMem16]
@[simp] theorem State.draws_writeMem16 (s : State) (g o : Word) (v : Word) :
    (s.writeMem16 g o v).draws = s.draws := by
  simp [State.writeMem16]
@[simp] theorem State.schedule_writeMem16 (s : State) (g o : Word) (v : Word) :
    (s.writeMem16 g o v).schedule = s.schedule := by
  simp [State.writeMem16]
@[simp] theorem State.hostReply_writeMem16 (s : State) (g o : Word) (v : Word) :
    (s.writeMem16 g o v).hostReply = s.hostReply := by
  simp [State.writeMem16]
@[simp] theorem State.nextIp_writeMem16 (s : State) (g o : Word) (v : Word) (j : Instr) :
    (s.writeMem16 g o v).nextIp j = s.nextIp j := by
  simp [State.nextIp]

/-! ### push -/

@[simp] theorem State.log_push (s : State) (v : Word) : (s.push v).log = s.log := by
  simp [State.push]
@[simp] theorem State.faultStatus_push (s : State) (v : Word) :
    (s.push v).faultStatus = s.faultStatus := by
  simp [State.push]
@[simp] theorem State.pit_push (s : State) (v : Word) : (s.push v).pit = s.pit := by
  simp [State.push]
@[simp] theorem State.pic_push (s : State) (v : Word) : (s.push v).pic = s.pic := by
  simp [State.push]
@[simp] theorem State.cfg_push (s : State) (v : Word) : (s.push v).cfg = s.cfg := by
  simp [State.push]
@[simp] theorem State.segOvr_push (s : State) (v : Word) : (s.push v).segOvr = s.segOvr := by
  simp [State.push]
@[simp] theorem State.prefixLen_push (s : State) (v : Word) :
    (s.push v).prefixLen = s.prefixLen := by
  simp [State.push]
@[simp] theorem State.draws_push (s : State) (v : Word) : (s.push v).draws = s.draws := by
  simp [State.push]
@[simp] theorem State.schedule_push (s : State) (v : Word) : (s.push v).schedule = s.schedule := by
  simp [State.push]
@[simp] theorem State.hostReply_push (s : State) (v : Word) :
    (s.push v).hostReply = s.hostReply := by
  simp [State.push]
@[simp] theorem State.ip_push (s : State) (v : Word) : (s.push v).regs.ip = s.regs.ip := by
  simp [State.push]
@[simp] theorem State.nextIp_push (s : State) (v : Word) (j : Instr) :
    (s.push v).nextIp j = s.nextIp j := by
  simp [State.nextIp]

/-! ### put8 -/

@[simp] theorem State.log_put8 (s : State) (l : Loc8) (v : Byte) : (s.put8 l v).log = s.log := by
  cases l <;> simp [State.put8]
@[simp] theorem State.faultStatus_put8 (s : State) (l : Loc8) (v : Byte) :
    (s.put8 l v).faultStatus = s.faultStatus := by
  cases l <;> simp [State.put8]
@[simp] theorem State.pit_put8 (s : State) (l : Loc8) (v : Byte) : (s.put8 l v).pit = s.pit := by
  cases l <;> simp [State.put8]
@[simp] theorem State.pic_put8 (s : State) (l : Loc8) (v : Byte) : (s.put8 l v).pic = s.pic := by
  cases l <;> simp [State.put8]
@[simp] theorem State.cfg_put8 (s : State) (l : Loc8) (v : Byte) : (s.put8 l v).cfg = s.cfg := by
  cases l <;> simp [State.put8]
@[simp] theorem State.segOvr_put8 (s : State) (l : Loc8) (v : Byte) :
    (s.put8 l v).segOvr = s.segOvr := by
  cases l <;> simp [State.put8]
@[simp] theorem State.prefixLen_put8 (s : State) (l : Loc8) (v : Byte) :
    (s.put8 l v).prefixLen = s.prefixLen := by
  cases l <;> simp [State.put8]
@[simp] theorem State.draws_put8 (s : State) (l : Loc8) (v : Byte) :
    (s.put8 l v).draws = s.draws := by
  cases l <;> simp [State.put8]
@[simp] theorem State.schedule_put8 (s : State) (l : Loc8) (v : Byte) :
    (s.put8 l v).schedule = s.schedule := by
  cases l <;> simp [State.put8]
@[simp] theorem State.hostReply_put8 (s : State) (l : Loc8) (v : Byte) :
    (s.put8 l v).hostReply = s.hostReply := by
  cases l <;> simp [State.put8]
@[simp] theorem State.ip_put8 (s : State) (l : Loc8) (v : Byte) :
    (s.put8 l v).regs.ip = s.regs.ip := by
  cases l <;> simp [State.put8]
@[simp] theorem State.nextIp_put8 (s : State) (l : Loc8) (v : Byte) (j : Instr) :
    (s.put8 l v).nextIp j = s.nextIp j := by
  simp [State.nextIp]

/-! ### put16 -/

@[simp] theorem State.log_put16 (s : State) (l : Loc16) (v : Word) : (s.put16 l v).log = s.log := by
  cases l <;> simp [State.put16]
@[simp] theorem State.faultStatus_put16 (s : State) (l : Loc16) (v : Word) :
    (s.put16 l v).faultStatus = s.faultStatus := by
  cases l <;> simp [State.put16]
@[simp] theorem State.pit_put16 (s : State) (l : Loc16) (v : Word) : (s.put16 l v).pit = s.pit := by
  cases l <;> simp [State.put16]
@[simp] theorem State.pic_put16 (s : State) (l : Loc16) (v : Word) : (s.put16 l v).pic = s.pic := by
  cases l <;> simp [State.put16]
@[simp] theorem State.cfg_put16 (s : State) (l : Loc16) (v : Word) : (s.put16 l v).cfg = s.cfg := by
  cases l <;> simp [State.put16]
@[simp] theorem State.segOvr_put16 (s : State) (l : Loc16) (v : Word) :
    (s.put16 l v).segOvr = s.segOvr := by
  cases l <;> simp [State.put16]
@[simp] theorem State.prefixLen_put16 (s : State) (l : Loc16) (v : Word) :
    (s.put16 l v).prefixLen = s.prefixLen := by
  cases l <;> simp [State.put16]
@[simp] theorem State.draws_put16 (s : State) (l : Loc16) (v : Word) :
    (s.put16 l v).draws = s.draws := by
  cases l <;> simp [State.put16]
@[simp] theorem State.schedule_put16 (s : State) (l : Loc16) (v : Word) :
    (s.put16 l v).schedule = s.schedule := by
  cases l <;> simp [State.put16]
@[simp] theorem State.hostReply_put16 (s : State) (l : Loc16) (v : Word) :
    (s.put16 l v).hostReply = s.hostReply := by
  cases l <;> simp [State.put16]
@[simp] theorem State.ip_put16 (s : State) (l : Loc16) (v : Word) :
    (s.put16 l v).regs.ip = s.regs.ip := by
  cases l <;> simp [State.put16]
@[simp] theorem State.nextIp_put16 (s : State) (l : Loc16) (v : Word) (j : Instr) :
    (s.put16 l v).nextIp j = s.nextIp j := by
  simp [State.nextIp]

/-! ### alu8 -/

@[simp] theorem State.log_alu8 (s : State) (k : AluOp) (l : Loc8) (a b : Byte) :
    (s.alu8 k l a b).log = s.log := by
  cases k <;> simp [State.alu8, aluResult]
@[simp] theorem State.faultStatus_alu8 (s : State) (k : AluOp) (l : Loc8) (a b : Byte) :
    (s.alu8 k l a b).faultStatus = s.faultStatus := by
  cases k <;> simp [State.alu8, aluResult]
@[simp] theorem State.pit_alu8 (s : State) (k : AluOp) (l : Loc8) (a b : Byte) :
    (s.alu8 k l a b).pit = s.pit := by
  cases k <;> simp [State.alu8, aluResult]
@[simp] theorem State.pic_alu8 (s : State) (k : AluOp) (l : Loc8) (a b : Byte) :
    (s.alu8 k l a b).pic = s.pic := by
  cases k <;> simp [State.alu8, aluResult]
@[simp] theorem State.cfg_alu8 (s : State) (k : AluOp) (l : Loc8) (a b : Byte) :
    (s.alu8 k l a b).cfg = s.cfg := by
  cases k <;> simp [State.alu8, aluResult]
@[simp] theorem State.segOvr_alu8 (s : State) (k : AluOp) (l : Loc8) (a b : Byte) :
    (s.alu8 k l a b).segOvr = s.segOvr := by
  cases k <;> simp [State.alu8, aluResult]
@[simp] theorem State.prefixLen_alu8 (s : State) (k : AluOp) (l : Loc8) (a b : Byte) :
    (s.alu8 k l a b).prefixLen = s.prefixLen := by
  cases k <;> simp [State.alu8, aluResult]
@[simp] theorem State.draws_alu8 (s : State) (k : AluOp) (l : Loc8) (a b : Byte) :
    (s.alu8 k l a b).draws = s.draws := by
  cases k <;> simp [State.alu8, aluResult]
@[simp] theorem State.schedule_alu8 (s : State) (k : AluOp) (l : Loc8) (a b : Byte) :
    (s.alu8 k l a b).schedule = s.schedule := by
  cases k <;> simp [State.alu8, aluResult]
@[simp] theorem State.hostReply_alu8 (s : State) (k : AluOp) (l : Loc8) (a b : Byte) :
    (s.alu8 k l a b).hostReply = s.hostReply := by
  cases k <;> simp [State.alu8, aluResult]
@[simp] theorem State.ip_alu8 (s : State) (k : AluOp) (l : Loc8) (a b : Byte) :
    (s.alu8 k l a b).regs.ip = s.regs.ip := by
  cases k <;> simp [State.alu8, aluResult]
@[simp] theorem State.nextIp_alu8 (s : State) (k : AluOp) (l : Loc8) (a b : Byte) (j : Instr) :
    (s.alu8 k l a b).nextIp j = s.nextIp j := by
  simp [State.nextIp]

/-! ### alu16 -/

@[simp] theorem State.log_alu16 (s : State) (k : AluOp) (l : Loc16) (a b : Word) :
    (s.alu16 k l a b).log = s.log := by
  cases k <;> simp [State.alu16, aluResult]
@[simp] theorem State.faultStatus_alu16 (s : State) (k : AluOp) (l : Loc16) (a b : Word) :
    (s.alu16 k l a b).faultStatus = s.faultStatus := by
  cases k <;> simp [State.alu16, aluResult]
@[simp] theorem State.pit_alu16 (s : State) (k : AluOp) (l : Loc16) (a b : Word) :
    (s.alu16 k l a b).pit = s.pit := by
  cases k <;> simp [State.alu16, aluResult]
@[simp] theorem State.pic_alu16 (s : State) (k : AluOp) (l : Loc16) (a b : Word) :
    (s.alu16 k l a b).pic = s.pic := by
  cases k <;> simp [State.alu16, aluResult]
@[simp] theorem State.cfg_alu16 (s : State) (k : AluOp) (l : Loc16) (a b : Word) :
    (s.alu16 k l a b).cfg = s.cfg := by
  cases k <;> simp [State.alu16, aluResult]
@[simp] theorem State.segOvr_alu16 (s : State) (k : AluOp) (l : Loc16) (a b : Word) :
    (s.alu16 k l a b).segOvr = s.segOvr := by
  cases k <;> simp [State.alu16, aluResult]
@[simp] theorem State.prefixLen_alu16 (s : State) (k : AluOp) (l : Loc16) (a b : Word) :
    (s.alu16 k l a b).prefixLen = s.prefixLen := by
  cases k <;> simp [State.alu16, aluResult]
@[simp] theorem State.draws_alu16 (s : State) (k : AluOp) (l : Loc16) (a b : Word) :
    (s.alu16 k l a b).draws = s.draws := by
  cases k <;> simp [State.alu16, aluResult]
@[simp] theorem State.schedule_alu16 (s : State) (k : AluOp) (l : Loc16) (a b : Word) :
    (s.alu16 k l a b).schedule = s.schedule := by
  cases k <;> simp [State.alu16, aluResult]
@[simp] theorem State.hostReply_alu16 (s : State) (k : AluOp) (l : Loc16) (a b : Word) :
    (s.alu16 k l a b).hostReply = s.hostReply := by
  cases k <;> simp [State.alu16, aluResult]
@[simp] theorem State.ip_alu16 (s : State) (k : AluOp) (l : Loc16) (a b : Word) :
    (s.alu16 k l a b).regs.ip = s.regs.ip := by
  cases k <;> simp [State.alu16, aluResult]
@[simp] theorem State.nextIp_alu16 (s : State) (k : AluOp) (l : Loc16) (a b : Word) (j : Instr) :
    (s.alu16 k l a b).nextIp j = s.nextIp j := by
  simp [State.nextIp]

/-! ### inc8 -/

@[simp] theorem State.log_inc8 (s : State) (l : Loc8) : (s.inc8 l).log = s.log := by
  simp [State.inc8]
@[simp] theorem State.faultStatus_inc8 (s : State) (l : Loc8) :
    (s.inc8 l).faultStatus = s.faultStatus := by
  simp [State.inc8]
@[simp] theorem State.pit_inc8 (s : State) (l : Loc8) : (s.inc8 l).pit = s.pit := by
  simp [State.inc8]
@[simp] theorem State.pic_inc8 (s : State) (l : Loc8) : (s.inc8 l).pic = s.pic := by
  simp [State.inc8]
@[simp] theorem State.cfg_inc8 (s : State) (l : Loc8) : (s.inc8 l).cfg = s.cfg := by
  simp [State.inc8]
@[simp] theorem State.segOvr_inc8 (s : State) (l : Loc8) : (s.inc8 l).segOvr = s.segOvr := by
  simp [State.inc8]
@[simp] theorem State.prefixLen_inc8 (s : State) (l : Loc8) :
    (s.inc8 l).prefixLen = s.prefixLen := by
  simp [State.inc8]
@[simp] theorem State.draws_inc8 (s : State) (l : Loc8) : (s.inc8 l).draws = s.draws := by
  simp [State.inc8]
@[simp] theorem State.schedule_inc8 (s : State) (l : Loc8) : (s.inc8 l).schedule = s.schedule := by
  simp [State.inc8]
@[simp] theorem State.hostReply_inc8 (s : State) (l : Loc8) :
    (s.inc8 l).hostReply = s.hostReply := by
  simp [State.inc8]
@[simp] theorem State.ip_inc8 (s : State) (l : Loc8) : (s.inc8 l).regs.ip = s.regs.ip := by
  simp [State.inc8]
@[simp] theorem State.nextIp_inc8 (s : State) (l : Loc8) (j : Instr) :
    (s.inc8 l).nextIp j = s.nextIp j := by
  simp [State.nextIp]

/-! ### dec8 -/

@[simp] theorem State.log_dec8 (s : State) (l : Loc8) : (s.dec8 l).log = s.log := by
  simp [State.dec8]
@[simp] theorem State.faultStatus_dec8 (s : State) (l : Loc8) :
    (s.dec8 l).faultStatus = s.faultStatus := by
  simp [State.dec8]
@[simp] theorem State.pit_dec8 (s : State) (l : Loc8) : (s.dec8 l).pit = s.pit := by
  simp [State.dec8]
@[simp] theorem State.pic_dec8 (s : State) (l : Loc8) : (s.dec8 l).pic = s.pic := by
  simp [State.dec8]
@[simp] theorem State.cfg_dec8 (s : State) (l : Loc8) : (s.dec8 l).cfg = s.cfg := by
  simp [State.dec8]
@[simp] theorem State.segOvr_dec8 (s : State) (l : Loc8) : (s.dec8 l).segOvr = s.segOvr := by
  simp [State.dec8]
@[simp] theorem State.prefixLen_dec8 (s : State) (l : Loc8) :
    (s.dec8 l).prefixLen = s.prefixLen := by
  simp [State.dec8]
@[simp] theorem State.draws_dec8 (s : State) (l : Loc8) : (s.dec8 l).draws = s.draws := by
  simp [State.dec8]
@[simp] theorem State.schedule_dec8 (s : State) (l : Loc8) : (s.dec8 l).schedule = s.schedule := by
  simp [State.dec8]
@[simp] theorem State.hostReply_dec8 (s : State) (l : Loc8) :
    (s.dec8 l).hostReply = s.hostReply := by
  simp [State.dec8]
@[simp] theorem State.ip_dec8 (s : State) (l : Loc8) : (s.dec8 l).regs.ip = s.regs.ip := by
  simp [State.dec8]
@[simp] theorem State.nextIp_dec8 (s : State) (l : Loc8) (j : Instr) :
    (s.dec8 l).nextIp j = s.nextIp j := by
  simp [State.nextIp]

/-! ### neg8 -/

@[simp] theorem State.log_neg8 (s : State) (l : Loc8) : (s.neg8 l).log = s.log := by
  simp [State.neg8]
@[simp] theorem State.faultStatus_neg8 (s : State) (l : Loc8) :
    (s.neg8 l).faultStatus = s.faultStatus := by
  simp [State.neg8]
@[simp] theorem State.pit_neg8 (s : State) (l : Loc8) : (s.neg8 l).pit = s.pit := by
  simp [State.neg8]
@[simp] theorem State.pic_neg8 (s : State) (l : Loc8) : (s.neg8 l).pic = s.pic := by
  simp [State.neg8]
@[simp] theorem State.cfg_neg8 (s : State) (l : Loc8) : (s.neg8 l).cfg = s.cfg := by
  simp [State.neg8]
@[simp] theorem State.segOvr_neg8 (s : State) (l : Loc8) : (s.neg8 l).segOvr = s.segOvr := by
  simp [State.neg8]
@[simp] theorem State.prefixLen_neg8 (s : State) (l : Loc8) :
    (s.neg8 l).prefixLen = s.prefixLen := by
  simp [State.neg8]
@[simp] theorem State.draws_neg8 (s : State) (l : Loc8) : (s.neg8 l).draws = s.draws := by
  simp [State.neg8]
@[simp] theorem State.schedule_neg8 (s : State) (l : Loc8) : (s.neg8 l).schedule = s.schedule := by
  simp [State.neg8]
@[simp] theorem State.hostReply_neg8 (s : State) (l : Loc8) :
    (s.neg8 l).hostReply = s.hostReply := by
  simp [State.neg8]
@[simp] theorem State.ip_neg8 (s : State) (l : Loc8) : (s.neg8 l).regs.ip = s.regs.ip := by
  simp [State.neg8]
@[simp] theorem State.nextIp_neg8 (s : State) (l : Loc8) (j : Instr) :
    (s.neg8 l).nextIp j = s.nextIp j := by
  simp [State.nextIp]

/-! ### inc16 -/

@[simp] theorem State.log_inc16 (s : State) (l : Loc16) : (s.inc16 l).log = s.log := by
  simp [State.inc16]
@[simp] theorem State.faultStatus_inc16 (s : State) (l : Loc16) :
    (s.inc16 l).faultStatus = s.faultStatus := by
  simp [State.inc16]
@[simp] theorem State.pit_inc16 (s : State) (l : Loc16) : (s.inc16 l).pit = s.pit := by
  simp [State.inc16]
@[simp] theorem State.pic_inc16 (s : State) (l : Loc16) : (s.inc16 l).pic = s.pic := by
  simp [State.inc16]
@[simp] theorem State.cfg_inc16 (s : State) (l : Loc16) : (s.inc16 l).cfg = s.cfg := by
  simp [State.inc16]
@[simp] theorem State.segOvr_inc16 (s : State) (l : Loc16) : (s.inc16 l).segOvr = s.segOvr := by
  simp [State.inc16]
@[simp] theorem State.prefixLen_inc16 (s : State) (l : Loc16) :
    (s.inc16 l).prefixLen = s.prefixLen := by
  simp [State.inc16]
@[simp] theorem State.draws_inc16 (s : State) (l : Loc16) : (s.inc16 l).draws = s.draws := by
  simp [State.inc16]
@[simp] theorem State.schedule_inc16 (s : State) (l : Loc16) :
    (s.inc16 l).schedule = s.schedule := by
  simp [State.inc16]
@[simp] theorem State.hostReply_inc16 (s : State) (l : Loc16) :
    (s.inc16 l).hostReply = s.hostReply := by
  simp [State.inc16]
@[simp] theorem State.ip_inc16 (s : State) (l : Loc16) : (s.inc16 l).regs.ip = s.regs.ip := by
  simp [State.inc16]
@[simp] theorem State.nextIp_inc16 (s : State) (l : Loc16) (j : Instr) :
    (s.inc16 l).nextIp j = s.nextIp j := by
  simp [State.nextIp]

/-! ### dec16 -/

@[simp] theorem State.log_dec16 (s : State) (l : Loc16) : (s.dec16 l).log = s.log := by
  simp [State.dec16]
@[simp] theorem State.faultStatus_dec16 (s : State) (l : Loc16) :
    (s.dec16 l).faultStatus = s.faultStatus := by
  simp [State.dec16]
@[simp] theorem State.pit_dec16 (s : State) (l : Loc16) : (s.dec16 l).pit = s.pit := by
  simp [State.dec16]
@[simp] theorem State.pic_dec16 (s : State) (l : Loc16) : (s.dec16 l).pic = s.pic := by
  simp [State.dec16]
@[simp] theorem State.cfg_dec16 (s : State) (l : Loc16) : (s.dec16 l).cfg = s.cfg := by
  simp [State.dec16]
@[simp] theorem State.segOvr_dec16 (s : State) (l : Loc16) : (s.dec16 l).segOvr = s.segOvr := by
  simp [State.dec16]
@[simp] theorem State.prefixLen_dec16 (s : State) (l : Loc16) :
    (s.dec16 l).prefixLen = s.prefixLen := by
  simp [State.dec16]
@[simp] theorem State.draws_dec16 (s : State) (l : Loc16) : (s.dec16 l).draws = s.draws := by
  simp [State.dec16]
@[simp] theorem State.schedule_dec16 (s : State) (l : Loc16) :
    (s.dec16 l).schedule = s.schedule := by
  simp [State.dec16]
@[simp] theorem State.hostReply_dec16 (s : State) (l : Loc16) :
    (s.dec16 l).hostReply = s.hostReply := by
  simp [State.dec16]
@[simp] theorem State.ip_dec16 (s : State) (l : Loc16) : (s.dec16 l).regs.ip = s.regs.ip := by
  simp [State.dec16]
@[simp] theorem State.nextIp_dec16 (s : State) (l : Loc16) (j : Instr) :
    (s.dec16 l).nextIp j = s.nextIp j := by
  simp [State.nextIp]

/-! ### neg16 -/

@[simp] theorem State.log_neg16 (s : State) (l : Loc16) : (s.neg16 l).log = s.log := by
  simp [State.neg16]
@[simp] theorem State.faultStatus_neg16 (s : State) (l : Loc16) :
    (s.neg16 l).faultStatus = s.faultStatus := by
  simp [State.neg16]
@[simp] theorem State.pit_neg16 (s : State) (l : Loc16) : (s.neg16 l).pit = s.pit := by
  simp [State.neg16]
@[simp] theorem State.pic_neg16 (s : State) (l : Loc16) : (s.neg16 l).pic = s.pic := by
  simp [State.neg16]
@[simp] theorem State.cfg_neg16 (s : State) (l : Loc16) : (s.neg16 l).cfg = s.cfg := by
  simp [State.neg16]
@[simp] theorem State.segOvr_neg16 (s : State) (l : Loc16) : (s.neg16 l).segOvr = s.segOvr := by
  simp [State.neg16]
@[simp] theorem State.prefixLen_neg16 (s : State) (l : Loc16) :
    (s.neg16 l).prefixLen = s.prefixLen := by
  simp [State.neg16]
@[simp] theorem State.draws_neg16 (s : State) (l : Loc16) : (s.neg16 l).draws = s.draws := by
  simp [State.neg16]
@[simp] theorem State.schedule_neg16 (s : State) (l : Loc16) :
    (s.neg16 l).schedule = s.schedule := by
  simp [State.neg16]
@[simp] theorem State.hostReply_neg16 (s : State) (l : Loc16) :
    (s.neg16 l).hostReply = s.hostReply := by
  simp [State.neg16]
@[simp] theorem State.ip_neg16 (s : State) (l : Loc16) : (s.neg16 l).regs.ip = s.regs.ip := by
  simp [State.neg16]
@[simp] theorem State.nextIp_neg16 (s : State) (l : Loc16) (j : Instr) :
    (s.neg16 l).nextIp j = s.nextIp j := by
  simp [State.nextIp]

/-! ### shift8 -/

@[simp] theorem State.log_shift8 (s : State) (k : ShiftOp) (n : Nat) (e : Ea8) :
    (s.shift8 k n e).log = s.log := by
  by_cases h : n = 0 <;> simp [State.shift8, h]
@[simp] theorem State.faultStatus_shift8 (s : State) (k : ShiftOp) (n : Nat) (e : Ea8) :
    (s.shift8 k n e).faultStatus = s.faultStatus := by
  by_cases h : n = 0 <;> simp [State.shift8, h]
@[simp] theorem State.pit_shift8 (s : State) (k : ShiftOp) (n : Nat) (e : Ea8) :
    (s.shift8 k n e).pit = s.pit := by
  by_cases h : n = 0 <;> simp [State.shift8, h]
@[simp] theorem State.pic_shift8 (s : State) (k : ShiftOp) (n : Nat) (e : Ea8) :
    (s.shift8 k n e).pic = s.pic := by
  by_cases h : n = 0 <;> simp [State.shift8, h]
@[simp] theorem State.cfg_shift8 (s : State) (k : ShiftOp) (n : Nat) (e : Ea8) :
    (s.shift8 k n e).cfg = s.cfg := by
  by_cases h : n = 0 <;> simp [State.shift8, h]
@[simp] theorem State.segOvr_shift8 (s : State) (k : ShiftOp) (n : Nat) (e : Ea8) :
    (s.shift8 k n e).segOvr = s.segOvr := by
  by_cases h : n = 0 <;> simp [State.shift8, h]
@[simp] theorem State.prefixLen_shift8 (s : State) (k : ShiftOp) (n : Nat) (e : Ea8) :
    (s.shift8 k n e).prefixLen = s.prefixLen := by
  by_cases h : n = 0 <;> simp [State.shift8, h]
@[simp] theorem State.schedule_shift8 (s : State) (k : ShiftOp) (n : Nat) (e : Ea8) :
    (s.shift8 k n e).schedule = s.schedule := by
  by_cases h : n = 0 <;> simp [State.shift8, h]
@[simp] theorem State.hostReply_shift8 (s : State) (k : ShiftOp) (n : Nat) (e : Ea8) :
    (s.shift8 k n e).hostReply = s.hostReply := by
  by_cases h : n = 0 <;> simp [State.shift8, h]
@[simp] theorem State.ip_shift8 (s : State) (k : ShiftOp) (n : Nat) (e : Ea8) :
    (s.shift8 k n e).regs.ip = s.regs.ip := by
  by_cases h : n = 0 <;> simp [State.shift8, h]
@[simp] theorem State.nextIp_shift8 (s : State) (k : ShiftOp) (n : Nat) (e : Ea8) (j : Instr) :
    (s.shift8 k n e).nextIp j = s.nextIp j := by
  simp [State.nextIp]

/-! ### shift16 -/

@[simp] theorem State.log_shift16 (s : State) (k : ShiftOp) (n : Nat) (e : Ea16) :
    (s.shift16 k n e).log = s.log := by
  by_cases h : n = 0 <;> simp [State.shift16, h]
@[simp] theorem State.faultStatus_shift16 (s : State) (k : ShiftOp) (n : Nat) (e : Ea16) :
    (s.shift16 k n e).faultStatus = s.faultStatus := by
  by_cases h : n = 0 <;> simp [State.shift16, h]
@[simp] theorem State.pit_shift16 (s : State) (k : ShiftOp) (n : Nat) (e : Ea16) :
    (s.shift16 k n e).pit = s.pit := by
  by_cases h : n = 0 <;> simp [State.shift16, h]
@[simp] theorem State.pic_shift16 (s : State) (k : ShiftOp) (n : Nat) (e : Ea16) :
    (s.shift16 k n e).pic = s.pic := by
  by_cases h : n = 0 <;> simp [State.shift16, h]
@[simp] theorem State.cfg_shift16 (s : State) (k : ShiftOp) (n : Nat) (e : Ea16) :
    (s.shift16 k n e).cfg = s.cfg := by
  by_cases h : n = 0 <;> simp [State.shift16, h]
@[simp] theorem State.segOvr_shift16 (s : State) (k : ShiftOp) (n : Nat) (e : Ea16) :
    (s.shift16 k n e).segOvr = s.segOvr := by
  by_cases h : n = 0 <;> simp [State.shift16, h]
@[simp] theorem State.prefixLen_shift16 (s : State) (k : ShiftOp) (n : Nat) (e : Ea16) :
    (s.shift16 k n e).prefixLen = s.prefixLen := by
  by_cases h : n = 0 <;> simp [State.shift16, h]
@[simp] theorem State.schedule_shift16 (s : State) (k : ShiftOp) (n : Nat) (e : Ea16) :
    (s.shift16 k n e).schedule = s.schedule := by
  by_cases h : n = 0 <;> simp [State.shift16, h]
@[simp] theorem State.hostReply_shift16 (s : State) (k : ShiftOp) (n : Nat) (e : Ea16) :
    (s.shift16 k n e).hostReply = s.hostReply := by
  by_cases h : n = 0 <;> simp [State.shift16, h]
@[simp] theorem State.ip_shift16 (s : State) (k : ShiftOp) (n : Nat) (e : Ea16) :
    (s.shift16 k n e).regs.ip = s.regs.ip := by
  by_cases h : n = 0 <;> simp [State.shift16, h]
@[simp] theorem State.nextIp_shift16 (s : State) (k : ShiftOp) (n : Nat) (e : Ea16) (j : Instr) :
    (s.shift16 k n e).nextIp j = s.nextIp j := by
  simp [State.nextIp]

/-! ### interrupt -/

@[simp] theorem State.log_interrupt (s : State) (n : Byte) (ret : Word) :
    (s.interrupt n ret).log = s.log := by
  simp [State.interrupt]
@[simp] theorem State.faultStatus_interrupt (s : State) (n : Byte) (ret : Word) :
    (s.interrupt n ret).faultStatus = s.faultStatus := by
  simp [State.interrupt]
@[simp] theorem State.pit_interrupt (s : State) (n : Byte) (ret : Word) :
    (s.interrupt n ret).pit = s.pit := by
  simp [State.interrupt]
@[simp] theorem State.pic_interrupt (s : State) (n : Byte) (ret : Word) :
    (s.interrupt n ret).pic = s.pic := by
  simp [State.interrupt]
@[simp] theorem State.cfg_interrupt (s : State) (n : Byte) (ret : Word) :
    (s.interrupt n ret).cfg = s.cfg := by
  simp [State.interrupt]
@[simp] theorem State.segOvr_interrupt (s : State) (n : Byte) (ret : Word) :
    (s.interrupt n ret).segOvr = s.segOvr := by
  simp [State.interrupt]
@[simp] theorem State.prefixLen_interrupt (s : State) (n : Byte) (ret : Word) :
    (s.interrupt n ret).prefixLen = s.prefixLen := by
  simp [State.interrupt]
@[simp] theorem State.draws_interrupt (s : State) (n : Byte) (ret : Word) :
    (s.interrupt n ret).draws = s.draws := by
  simp [State.interrupt]
@[simp] theorem State.schedule_interrupt (s : State) (n : Byte) (ret : Word) :
    (s.interrupt n ret).schedule = s.schedule := by
  simp [State.interrupt]
@[simp] theorem State.hostReply_interrupt (s : State) (n : Byte) (ret : Word) :
    (s.interrupt n ret).hostReply = s.hostReply := by
  simp [State.interrupt]

/-! ### ioByteRead -/

@[simp] theorem State.regs_ioByteRead (s : State) (p : Word) :
    (s.ioByteRead p).2.regs = s.regs := by
  unfold State.ioByteRead; split <;> rfl
@[simp] theorem State.log_ioByteRead (s : State) (p : Word) : (s.ioByteRead p).2.log = s.log := by
  unfold State.ioByteRead; split <;> rfl
@[simp] theorem State.faultStatus_ioByteRead (s : State) (p : Word) :
    (s.ioByteRead p).2.faultStatus = s.faultStatus := by
  unfold State.ioByteRead; split <;> rfl
@[simp] theorem State.pic_ioByteRead (s : State) (p : Word) : (s.ioByteRead p).2.pic = s.pic := by
  unfold State.ioByteRead; split <;> rfl
@[simp] theorem State.mem_ioByteRead (s : State) (p : Word) : (s.ioByteRead p).2.mem = s.mem := by
  unfold State.ioByteRead; split <;> rfl
@[simp] theorem State.cfg_ioByteRead (s : State) (p : Word) : (s.ioByteRead p).2.cfg = s.cfg := by
  unfold State.ioByteRead; split <;> rfl
@[simp] theorem State.segOvr_ioByteRead (s : State) (p : Word) :
    (s.ioByteRead p).2.segOvr = s.segOvr := by
  unfold State.ioByteRead; split <;> rfl
@[simp] theorem State.prefixLen_ioByteRead (s : State) (p : Word) :
    (s.ioByteRead p).2.prefixLen = s.prefixLen := by
  unfold State.ioByteRead; split <;> rfl
@[simp] theorem State.draws_ioByteRead (s : State) (p : Word) :
    (s.ioByteRead p).2.draws = s.draws := by
  unfold State.ioByteRead; split <;> rfl
@[simp] theorem State.schedule_ioByteRead (s : State) (p : Word) :
    (s.ioByteRead p).2.schedule = s.schedule := by
  unfold State.ioByteRead; split <;> rfl
@[simp] theorem State.hostReply_ioByteRead (s : State) (p : Word) :
    (s.ioByteRead p).2.hostReply = s.hostReply := by
  unfold State.ioByteRead; split <;> rfl
@[simp] theorem State.nextIp_ioByteRead (s : State) (p : Word) (j : Instr) :
    (s.ioByteRead p).2.nextIp j = s.nextIp j := by
  simp [State.nextIp]

/-! ### ioWordRead -/

@[simp] theorem State.regs_ioWordRead (s : State) (p : Word) :
    (s.ioWordRead p).2.regs = s.regs := by
  simp [State.ioWordRead]
@[simp] theorem State.log_ioWordRead (s : State) (p : Word) : (s.ioWordRead p).2.log = s.log := by
  simp [State.ioWordRead]
@[simp] theorem State.faultStatus_ioWordRead (s : State) (p : Word) :
    (s.ioWordRead p).2.faultStatus = s.faultStatus := by
  simp [State.ioWordRead]
@[simp] theorem State.pic_ioWordRead (s : State) (p : Word) : (s.ioWordRead p).2.pic = s.pic := by
  simp [State.ioWordRead]
@[simp] theorem State.mem_ioWordRead (s : State) (p : Word) : (s.ioWordRead p).2.mem = s.mem := by
  simp [State.ioWordRead]
@[simp] theorem State.cfg_ioWordRead (s : State) (p : Word) : (s.ioWordRead p).2.cfg = s.cfg := by
  simp [State.ioWordRead]
@[simp] theorem State.segOvr_ioWordRead (s : State) (p : Word) :
    (s.ioWordRead p).2.segOvr = s.segOvr := by
  simp [State.ioWordRead]
@[simp] theorem State.prefixLen_ioWordRead (s : State) (p : Word) :
    (s.ioWordRead p).2.prefixLen = s.prefixLen := by
  simp [State.ioWordRead]
@[simp] theorem State.draws_ioWordRead (s : State) (p : Word) :
    (s.ioWordRead p).2.draws = s.draws := by
  simp [State.ioWordRead]
@[simp] theorem State.schedule_ioWordRead (s : State) (p : Word) :
    (s.ioWordRead p).2.schedule = s.schedule := by
  simp [State.ioWordRead]
@[simp] theorem State.hostReply_ioWordRead (s : State) (p : Word) :
    (s.ioWordRead p).2.hostReply = s.hostReply := by
  simp [State.ioWordRead]
@[simp] theorem State.nextIp_ioWordRead (s : State) (p : Word) (j : Instr) :
    (s.ioWordRead p).2.nextIp j = s.nextIp j := by
  simp [State.nextIp]

/-! ### ioByteWrite -/

@[simp] theorem State.regs_ioByteWrite (s : State) (p : Word) (v : Byte) :
    (s.ioByteWrite p v).regs = s.regs := by
  unfold State.ioByteWrite; split <;> rfl
@[simp] theorem State.log_ioByteWrite (s : State) (p : Word) (v : Byte) :
    (s.ioByteWrite p v).log = s.log := by
  unfold State.ioByteWrite; split <;> rfl
@[simp] theorem State.faultStatus_ioByteWrite (s : State) (p : Word) (v : Byte) :
    (s.ioByteWrite p v).faultStatus = s.faultStatus := by
  unfold State.ioByteWrite; split <;> rfl
@[simp] theorem State.mem_ioByteWrite (s : State) (p : Word) (v : Byte) :
    (s.ioByteWrite p v).mem = s.mem := by
  unfold State.ioByteWrite; split <;> rfl
@[simp] theorem State.cfg_ioByteWrite (s : State) (p : Word) (v : Byte) :
    (s.ioByteWrite p v).cfg = s.cfg := by
  unfold State.ioByteWrite; split <;> rfl
@[simp] theorem State.segOvr_ioByteWrite (s : State) (p : Word) (v : Byte) :
    (s.ioByteWrite p v).segOvr = s.segOvr := by
  unfold State.ioByteWrite; split <;> rfl
@[simp] theorem State.prefixLen_ioByteWrite (s : State) (p : Word) (v : Byte) :
    (s.ioByteWrite p v).prefixLen = s.prefixLen := by
  unfold State.ioByteWrite; split <;> rfl
@[simp] theorem State.draws_ioByteWrite (s : State) (p : Word) (v : Byte) :
    (s.ioByteWrite p v).draws = s.draws := by
  unfold State.ioByteWrite; split <;> rfl
@[simp] theorem State.schedule_ioByteWrite (s : State) (p : Word) (v : Byte) :
    (s.ioByteWrite p v).schedule = s.schedule := by
  unfold State.ioByteWrite; split <;> rfl
@[simp] theorem State.hostReply_ioByteWrite (s : State) (p : Word) (v : Byte) :
    (s.ioByteWrite p v).hostReply = s.hostReply := by
  unfold State.ioByteWrite; split <;> rfl
@[simp] theorem State.nextIp_ioByteWrite (s : State) (p : Word) (v : Byte) (j : Instr) :
    (s.ioByteWrite p v).nextIp j = s.nextIp j := by
  simp [State.nextIp]

/-! ### ioWordWrite -/

@[simp] theorem State.regs_ioWordWrite (s : State) (p v : Word) :
    (s.ioWordWrite p v).regs = s.regs := by
  simp [State.ioWordWrite]
@[simp] theorem State.log_ioWordWrite (s : State) (p v : Word) :
    (s.ioWordWrite p v).log = s.log := by
  simp [State.ioWordWrite]
@[simp] theorem State.faultStatus_ioWordWrite (s : State) (p v : Word) :
    (s.ioWordWrite p v).faultStatus = s.faultStatus := by
  simp [State.ioWordWrite]
@[simp] theorem State.mem_ioWordWrite (s : State) (p v : Word) :
    (s.ioWordWrite p v).mem = s.mem := by
  simp [State.ioWordWrite]
@[simp] theorem State.cfg_ioWordWrite (s : State) (p v : Word) :
    (s.ioWordWrite p v).cfg = s.cfg := by
  simp [State.ioWordWrite]
@[simp] theorem State.segOvr_ioWordWrite (s : State) (p v : Word) :
    (s.ioWordWrite p v).segOvr = s.segOvr := by
  simp [State.ioWordWrite]
@[simp] theorem State.prefixLen_ioWordWrite (s : State) (p v : Word) :
    (s.ioWordWrite p v).prefixLen = s.prefixLen := by
  simp [State.ioWordWrite]
@[simp] theorem State.draws_ioWordWrite (s : State) (p v : Word) :
    (s.ioWordWrite p v).draws = s.draws := by
  simp [State.ioWordWrite]
@[simp] theorem State.schedule_ioWordWrite (s : State) (p v : Word) :
    (s.ioWordWrite p v).schedule = s.schedule := by
  simp [State.ioWordWrite]
@[simp] theorem State.hostReply_ioWordWrite (s : State) (p v : Word) :
    (s.ioWordWrite p v).hostReply = s.hostReply := by
  simp [State.ioWordWrite]
@[simp] theorem State.nextIp_ioWordWrite (s : State) (p v : Word) (j : Instr) :
    (s.ioWordWrite p v).nextIp j = s.nextIp j := by
  simp [State.nextIp]

/-! ### appendLog -/

@[simp] theorem State.regs_appendLog (s : State) (e : LogEntry) :
    (s.appendLog e).regs = s.regs := rfl
@[simp] theorem State.faultStatus_appendLog (s : State) (e : LogEntry) :
    (s.appendLog e).faultStatus = s.faultStatus := rfl
@[simp] theorem State.pit_appendLog (s : State) (e : LogEntry) : (s.appendLog e).pit = s.pit := rfl
@[simp] theorem State.pic_appendLog (s : State) (e : LogEntry) : (s.appendLog e).pic = s.pic := rfl
@[simp] theorem State.mem_appendLog (s : State) (e : LogEntry) : (s.appendLog e).mem = s.mem := rfl
@[simp] theorem State.cfg_appendLog (s : State) (e : LogEntry) : (s.appendLog e).cfg = s.cfg := rfl
@[simp] theorem State.segOvr_appendLog (s : State) (e : LogEntry) :
    (s.appendLog e).segOvr = s.segOvr := rfl
@[simp] theorem State.prefixLen_appendLog (s : State) (e : LogEntry) :
    (s.appendLog e).prefixLen = s.prefixLen := rfl
@[simp] theorem State.draws_appendLog (s : State) (e : LogEntry) :
    (s.appendLog e).draws = s.draws := rfl
@[simp] theorem State.schedule_appendLog (s : State) (e : LogEntry) :
    (s.appendLog e).schedule = s.schedule := rfl
@[simp] theorem State.hostReply_appendLog (s : State) (e : LogEntry) :
    (s.appendLog e).hostReply = s.hostReply := rfl
@[simp] theorem State.nextIp_appendLog (s : State) (e : LogEntry) (j : Instr) :
    (s.appendLog e).nextIp j = s.nextIp j := by
  simp [State.nextIp]

/-! ### trace -/

@[simp] theorem State.regs_trace (s : State) (i : Instr) : (s.trace i).regs = s.regs := rfl
@[simp] theorem State.faultStatus_trace (s : State) (i : Instr) :
    (s.trace i).faultStatus = s.faultStatus := rfl
@[simp] theorem State.pit_trace (s : State) (i : Instr) : (s.trace i).pit = s.pit := rfl
@[simp] theorem State.pic_trace (s : State) (i : Instr) : (s.trace i).pic = s.pic := rfl
@[simp] theorem State.mem_trace (s : State) (i : Instr) : (s.trace i).mem = s.mem := rfl
@[simp] theorem State.cfg_trace (s : State) (i : Instr) : (s.trace i).cfg = s.cfg := rfl
@[simp] theorem State.segOvr_trace (s : State) (i : Instr) : (s.trace i).segOvr = s.segOvr := rfl
@[simp] theorem State.prefixLen_trace (s : State) (i : Instr) :
    (s.trace i).prefixLen = s.prefixLen := rfl
@[simp] theorem State.draws_trace (s : State) (i : Instr) : (s.trace i).draws = s.draws := rfl
@[simp] theorem State.schedule_trace (s : State) (i : Instr) :
    (s.trace i).schedule = s.schedule := rfl
@[simp] theorem State.hostReply_trace (s : State) (i : Instr) :
    (s.trace i).hostReply = s.hostReply := rfl
@[simp] theorem State.nextIp_trace (s : State) (i : Instr) (j : Instr) :
    (s.trace i).nextIp j = s.nextIp j := by
  simp [State.nextIp]

/-! ### emulationFault -/

@[simp] theorem State.regs_emulationFault (s : State) (f : EmulationFault) :
    (s.emulationFault f).regs = s.regs := rfl
@[simp] theorem State.pit_emulationFault (s : State) (f : EmulationFault) :
    (s.emulationFault f).pit = s.pit := rfl
@[simp] theorem State.pic_emulationFault (s : State) (f : EmulationFault) :
    (s.emulationFault f).pic = s.pic := rfl
@[simp] theorem State.mem_emulationFault (s : State) (f : EmulationFault) :
    (s.emulationFault f).mem = s.mem := rfl
@[simp] theorem State.cfg_emulationFault (s : State) (f : EmulationFault) :
    (s.emulationFault f).cfg = s.cfg := rfl
@[simp] theorem State.segOvr_emulationFault (s : State) (f : EmulationFault) :
    (s.emulationFault f).segOvr = s.segOvr := rfl
@[simp] theorem State.prefixLen_emulationFault (s : State) (f : EmulationFault) :
    (s.emulationFault f).prefixLen = s.prefixLen := rfl
@[simp] theorem State.draws_emulationFault (s : State) (f : EmulationFault) :
    (s.emulationFault f).draws = s.draws := rfl
@[simp] theorem State.schedule_emulationFault (s : State) (f : EmulationFault) :
    (s.emulationFault f).schedule = s.schedule := rfl
@[simp] theorem State.hostReply_emulationFault (s : State) (f : EmulationFault) :
    (s.emulationFault f).hostReply = s.hostReply := rfl

/-! ### takePrefix -/

@[simp] theorem State.regs_takePrefix (s : State) (r : SReg) : (s.takePrefix r).regs = s.regs := rfl
@[simp] theorem State.log_takePrefix (s : State) (r : SReg) : (s.takePrefix r).log = s.log := rfl
@[simp] theorem State.faultStatus_takePrefix (s : State) (r : SReg) :
    (s.takePrefix r).faultStatus = s.faultStatus := rfl
@[simp] theorem State.pit_takePrefix (s : State) (r : SReg) : (s.takePrefix r).pit = s.pit := rfl
@[simp] theorem State.pic_takePrefix (s : State) (r : SReg) : (s.takePrefix r).pic = s.pic := rfl
@[simp] theorem State.mem_takePrefix (s : State) (r : SReg) : (s.takePrefix r).mem = s.mem := rfl
@[simp] theorem State.cfg_takePrefix (s : State) (r : SReg) : (s.takePrefix r).cfg = s.cfg := rfl
@[simp] theorem State.draws_takePrefix (s : State) (r : SReg) :
    (s.takePrefix r).draws = s.draws := rfl
@[simp] theorem State.schedule_takePrefix (s : State) (r : SReg) :
    (s.takePrefix r).schedule = s.schedule := rfl
@[simp] theorem State.hostReply_takePrefix (s : State) (r : SReg) :
    (s.takePrefix r).hostReply = s.hostReply := rfl

/-! ### idleCycle -/

@[simp] theorem State.regs_idleCycle (s : State) : s.idleCycle.regs = s.regs := rfl
@[simp] theorem State.log_idleCycle (s : State) : s.idleCycle.log = s.log := rfl
@[simp] theorem State.faultStatus_idleCycle (s : State) :
    s.idleCycle.faultStatus = s.faultStatus := rfl
@[simp] theorem State.pit_idleCycle (s : State) : s.idleCycle.pit = s.pit := rfl
@[simp] theorem State.pic_idleCycle (s : State) : s.idleCycle.pic = s.pic := rfl
@[simp] theorem State.mem_idleCycle (s : State) : s.idleCycle.mem = s.mem := rfl
@[simp] theorem State.cfg_idleCycle (s : State) : s.idleCycle.cfg = s.cfg := rfl
@[simp] theorem State.draws_idleCycle (s : State) : s.idleCycle.draws = s.draws := rfl
@[simp] theorem State.schedule_idleCycle (s : State) : s.idleCycle.schedule = s.schedule := rfl
@[simp] theorem State.hostReply_idleCycle (s : State) : s.idleCycle.hostReply = s.hostReply := rfl

end Sys2Proof.Machine
end

