-- ==== Sys2Proof/Laws/View.lean ====
section
/-! SUPPORT. The view after each shared operation, the canonical form of memory after it, and the
reserved bits of FLAGS after each flag computation. -/

namespace Sys2Proof.Machine

/-! ## Bytes and words -/

theorem wordOf_eq_append (lo hi : Byte) : wordOf lo hi = hi ++ lo := by
  revert lo hi; intro lo hi
  apply BitVec.eq_of_toNat_eq
  simp only [wordOf, BitVec.toNat_or, BitVec.toNat_append, BitVec.toNat_setWidth,
    BitVec.toNat_shiftLeft]
  have hl := lo.isLt
  have hh := hi.isLt
  rw [Nat.mod_eq_of_lt (by omega : lo.toNat < 2 ^ 16), Nat.mod_eq_of_lt (by omega : hi.toNat < 2 ^ 16),
    Nat.mod_eq_of_lt (by rw [Nat.shiftLeft_eq]; omega), Nat.lor_comm]

theorem loByte_eq_extract (w : Word) : loByte w = w.extractLsb' 0 8 := by
  ext i hi
  simp [loByte]

theorem hiByte_eq_extract (w : Word) : hiByte w = w.extractLsb' 8 8 := by
  ext i hi
  simp [hiByte]

/-! ## The view's parts -/

@[simp] theorem State.view_gen (s : State) : s.view.gen = s.regs.r16 := rfl
@[simp] theorem State.view_seg (s : State) : s.view.seg = s.regs.sreg := rfl
@[simp] theorem State.view_ip (s : State) : s.view.ip = s.regs.ip := rfl
@[simp] theorem State.view_flag (s : State) (f : Flag) :
    s.view.flag f = getFlag f s.regs.flags := rfl
@[simp] theorem State.view_mem (s : State) : s.view.mem = s.memRead := rfl
@[simp] theorem State.view_pit (s : State) : s.view.pit = s.pit := rfl
@[simp] theorem State.view_pic (s : State) : s.view.pic = s.pic := rfl

theorem State.view_byte (s : State) (r : Reg8) : s.view.byte r = s.regs.r8 r := by
  simp [View.byte, Regs.r8, loByte_eq_extract, hiByte_eq_extract]

theorem State.view_load8 (s : State) (seg off : Word) :
    s.view.load8 s.cfg seg off = s.readMem8 seg off := rfl

theorem State.view_load16 (s : State) (seg off : Word) :
    s.view.load16 s.cfg seg off = s.readMem16 seg off := by
  simp [View.load16, State.readMem16, wordOf_eq_append, State.view_load8]

theorem State.view_get8 (s : State) (l : Loc8) : s.view.get8 s.cfg l = s.get8 l := by
  cases l <;> simp [View.get8, State.get8, State.view_byte, State.view_load8]

theorem State.view_get16 (s : State) (l : Loc16) : s.view.get16 s.cfg l = s.get16 l := by
  cases l <;> simp [View.get16, State.get16, State.view_load16]

/-! ## Memory reads of states with the same memory -/

theorem State.memRead_congr {s t : State} (hm : t.mem = s.mem) (hc : t.cfg = s.cfg) :
    t.memRead = s.memRead := by
  funext a
  simp [State.memRead, hm, hc]

/-! ## The view after a register write -/

theorem State.view_setR16 (s : State) (r : Reg16) (v : Word) :
    (s.setR16 r v).view = s.view.setGen r v := by
  simp only [State.view, View.setGen, State.memRead_congr (State.mem_setR16 s r v) rfl]
  simp only [State.setR16, View.mk.injEq, Regs.ip_setR16, Regs.flags_setR16, and_true]
  exact ⟨by funext q; simp, by funext q; simp⟩

theorem State.view_setR8 (s : State) (r : Reg8) (v : Byte) :
    (s.setR8 r v).view = s.view.setByte r v := by
  have h : s.setR8 r v = s.setR16 r.parent
      (if r.isHigh then wordOf (loByte (s.regs.r16 r.parent)) v
       else wordOf v (hiByte (s.regs.r16 r.parent))) := rfl
  rw [h, State.view_setR16]
  simp [View.setByte, wordOf_eq_append, loByte_eq_extract, hiByte_eq_extract]

theorem State.view_setSreg (s : State) (r : SReg) (v : Word) :
    (s.setSreg r v).view = s.view.setSeg r v := by
  simp only [State.view, View.setSeg, State.memRead_congr (State.mem_setSreg s r v) rfl]
  simp only [State.setSreg, View.mk.injEq, Regs.ip_setSreg, Regs.flags_setSreg, and_true]
  exact ⟨by funext q; simp, by funext q; simp⟩

theorem State.view_setIp (s : State) (v : Word) :
    (s.setIp v).view = { s.view with ip := v } := rfl

theorem State.view_advance (s : State) (i : Instr) :
    (s.advance i).view = { s.view with ip := s.nextIp i } := rfl

theorem State.nextIp_eq_past (s : State) (i : Instr) : s.nextIp i = past s (encode i) := rfl

/-- FLAGS as a whole: every flag takes the word's bit (10_state.md R40). -/
theorem State.view_setFlags {s : State} (hc : s.cfg.wf = true) (v : Word) :
    (s.setFlags v).view = s.view.setFlagWord v := by
  simp only [State.view, View.setFlagWord, State.memRead_congr (State.mem_setFlags s v) rfl]
  simp only [State.setFlags, View.mk.injEq, true_and, and_true]
  refine ⟨rfl, rfl, ?_⟩
  funext f
  exact getFlag_flagsRule_wf hc v f

theorem State.view_setFlag {s : State} (hc : s.cfg.wf = true) (f : Flag) (b : Bool) :
    (s.setFlag f b).view = s.view.setFlag f b := by
  rw [State.setFlag, State.view_setFlags hc, View.setFlagWord, View.setFlag]
  simp only [View.mk.injEq, true_and, and_true]
  funext g
  exact getFlag_putFlag_wf hc s.regs.flags g f b

/-! ## The view after a memory write -/

theorem State.view_writeMem8 {s : State} (hm : s.mem.wf = true) (seg off : Word) (v : Byte) :
    (s.writeMem8 seg off v).view = s.view.store8 s.cfg seg off v := by
  simp only [State.view, View.store8, State.regs_writeMem8, State.pit_writeMem8,
    State.pic_writeMem8, View.mk.injEq, true_and, and_true]
  funext a
  rw [State.writeMem8, State.memRead_memWrite hm]
  by_cases h : a = linear s.cfg seg off
  · subst h; simp
  · simp [h]

@[simp] theorem State.wf_writeMem8 {s : State} (hm : s.mem.wf = true) (seg off : Word) (v : Byte) :
    (s.writeMem8 seg off v).mem.wf = true := State.wf_memWrite hm _ _

theorem State.view_writeMem16 {s : State} (hm : s.mem.wf = true) (seg off v : Word) :
    (s.writeMem16 seg off v).view = s.view.store16 s.cfg seg off v := by
  rw [State.writeMem16, State.view_writeMem8 (State.wf_writeMem8 hm _ _ _),
    State.view_writeMem8 hm]
  simp [View.store16, loByte_eq_extract, hiByte_eq_extract]

theorem State.view_put8 {s : State} (hm : s.mem.wf = true) (l : Loc8) (v : Byte) :
    (s.put8 l v).view = s.view.put8 s.cfg l v := by
  cases l
  · exact State.view_setR8 s _ v
  · exact State.view_writeMem8 hm _ _ v

theorem State.view_put16 {s : State} (hm : s.mem.wf = true) (l : Loc16) (v : Word) :
    (s.put16 l v).view = s.view.put16 s.cfg l v := by
  cases l
  · exact State.view_setR16 s _ v
  · exact State.view_writeMem16 hm _ _ v

@[simp] theorem State.wf_put8 {s : State} (hm : s.mem.wf = true) (l : Loc8) (v : Byte) :
    (s.put8 l v).mem.wf = true := by
  cases l
  · exact hm
  · exact State.wf_writeMem8 hm _ _ v

@[simp] theorem State.wf_put16 {s : State} (hm : s.mem.wf = true) (l : Loc16) (v : Word) :
    (s.put16 l v).mem.wf = true := by
  cases l
  · exact hm
  · exact State.wf_writeMem16 hm _ _ v

/-! ## The stack -/

theorem State.view_push {s : State} (hm : s.mem.wf = true) (v : Word) :
    (s.push v).view = s.view.push s.cfg v := by
  have hm' : (s.setR16 .sp (s.regs.r16 .sp - 2#16)).mem.wf = true := hm
  simp only [State.push, State.r16_eq, State.sreg_eq]
  rw [State.view_writeMem16 hm', State.view_setR16]
  simp [View.push, State.setR16]

@[simp] theorem State.wf_push {s : State} (hm : s.mem.wf = true) (v : Word) :
    (s.push v).mem.wf = true := State.wf_writeMem16 (s := s.setR16 _ _) hm _ _ v

theorem State.fst_pop (s : State) : s.pop.1 = s.view.top s.cfg :=
  (State.view_load16 s _ _).symm

theorem State.view_pop (s : State) : s.pop.2.view = s.view.drop := State.view_setR16 s _ _

@[simp] theorem State.flags_push (s : State) (v : Word) :
    (s.push v).regs.flags = s.regs.flags := by simp [State.push, State.setR16]

@[simp] theorem State.sreg_push (s : State) (v : Word) (r : SReg) :
    (s.push v).regs.sreg r = s.regs.sreg r := by simp [State.push, State.setR16]

@[simp] theorem State.flags_pop (s : State) : s.pop.2.regs.flags = s.regs.flags := by
  simp [State.pop, State.setR16]

/-- `interrupt(n, ret)` (60_exceptions.md R410). -/
theorem State.view_interrupt {s : State} (hc : s.cfg.wf = true) (hm : s.mem.wf = true) (n : Byte)
    (ret : Word) : (s.interrupt n ret).view = s.view.enter s.cfg s.regs.flags n ret := by
  have hv : zext16 n * 4#16 = BitVec.ofNat 16 (4 * n.toNat) := by
    apply BitVec.eq_of_toNat_eq
    have := n.isLt
    simp [zext16, BitVec.toNat_mul]
    omega
  have h1 : (s.push s.flags).mem.wf = true := State.wf_push hm _
  have h2 : (((s.push s.flags).setFlag .ifl false).setFlag .tf false).mem.wf = true := by
    simpa using h1
  have hc1 : (s.push s.flags).cfg.wf = true := by simpa using hc
  have hv1 : (((s.push s.flags).setFlag .ifl false).setFlag .tf false).view =
      ((s.view.push s.cfg s.regs.flags).setFlag .ifl false).setFlag .tf false := by
    rw [State.view_setFlag (s := (s.push s.flags).setFlag .ifl false) hc1, State.view_setFlag hc1,
      State.view_push hm]
    rfl
  have hcs : (((s.push s.flags).setFlag .ifl false).setFlag .tf false).sreg .cs
      = s.regs.sreg .cs := State.sreg_push s s.flags .cs
  unfold State.interrupt View.enter
  simp only [hv, hcs]
  generalize hu : ((s.push s.flags).setFlag .ifl false).setFlag .tf false = u at *
  have hcu : u.cfg = s.cfg := by subst hu; simp
  have h3 : (u.push (s.regs.sreg .cs)).mem.wf = true := State.wf_push h2 _
  rw [State.view_setSreg, State.view_setIp, ← State.view_load16, ← State.view_load16,
    State.view_push h3, State.view_push h2, hv1]
  simp [hcu, View.setSeg]

@[simp] theorem State.wf_interrupt {s : State} (hm : s.mem.wf = true) (n : Byte) (ret : Word) :
    (s.interrupt n ret).mem.wf = true := by
  have h1 : (((s.push s.regs.flags).setFlag .ifl false).setFlag .tf false).mem.wf = true := by
    simp [hm]
  simp only [State.interrupt, State.mem_setSreg, State.mem_setIp, State.flags_eq]
  exact State.wf_push (State.wf_push h1 _) _

end Sys2Proof.Machine
end

