-- ==== Sys2Proof/Laws/Reserved.lean ====
section
/-! SUPPORT. The reserved bits of FLAGS after each flag computation: kept bit by bit, and as
10_state.md R36 says. -/

namespace Sys2Proof.Machine

/-- The reserved bits of a FLAGS word read as 10_state.md R36 says. -/
def WordReserved (set v : Word) : Prop := v &&& flagsAlwaysClear = 0 ∧ v &&& set = set

/-- Two FLAGS words agree on the reserved bits. -/
def SameReserved (v u : Word) : Prop :=
  ∀ n, (∀ f : Flag, f.pos ≠ n) → u.getLsbD n = v.getLsbD n

theorem SameReserved.refl (v : Word) : SameReserved v v := fun _ _ => rfl

theorem SameReserved.trans {u v x : Word} (h : SameReserved u v) (k : SameReserved v x) :
    SameReserved u x := fun n hn => (k n hn).trans (h n hn)

theorem wordReserved_flagsRule {c : Config} (h : c.wf = true) (v : Word) :
    WordReserved c.flagsAlwaysSet (flagsRule c.flagsAlwaysSet v) :=
  ⟨flagsRule_clear h v, flagsRule_set _ v⟩

theorem wordReserved_putFlag {c : Config} (h : c.wf = true) (f : Flag) (b : Bool) (v : Word) :
    WordReserved c.flagsAlwaysSet (putFlag c.flagsAlwaysSet f b v) := wordReserved_flagsRule h _

/-- The write rule changes no reserved bit of a word whose reserved bits are right. -/
theorem flagsRule_eq_self {set v : Word} (hv : WordReserved set v) : flagsRule set v = v := by
  obtain ⟨h1, h2⟩ := hv
  ext i hi
  have e1 := congrArg (fun x : Word => x[i]) h1
  have e2 := congrArg (fun x : Word => x[i]) h2
  simp only [BitVec.getElem_and] at e1 e2
  simp only [flagsRule, BitVec.getElem_or, BitVec.getElem_and, BitVec.getElem_not]
  revert e1 e2
  cases v[i] <;> cases set[i] <;> cases flagsAlwaysClear[i] <;> simp

theorem sameReserved_putFlag {set v : Word} (hv : WordReserved set v) (f : Flag) (b : Bool) :
    SameReserved v (putFlag set f b v) := by
  intro n hn
  have e := congrArg (fun x : Word => x.getLsbD n) (flagsRule_eq_self hv)
  simp only [flagsRule, BitVec.getLsbD_or, BitVec.getLsbD_and, BitVec.getLsbD_not] at e
  by_cases h16 : n < 16
  · have hb : ∀ c : Bool, ((if c then 1#16 else 0#16) <<< f.pos).getLsbD n = false := by
      intro c
      by_cases hlt : n < f.pos
      · simp [hlt]
      · have : n - f.pos ≠ 0 := by have := hn f; omega
        cases c <;> simp [this]
    have h1 : (1#16 <<< f.pos).getLsbD n = false := hb true
    simp only [putFlag, flagsRule, BitVec.getLsbD_or, BitVec.getLsbD_and, BitVec.getLsbD_not, hb,
      h1, h16, decide_true, Bool.not_false, Bool.and_true, Bool.or_false, Bool.true_and] at e ⊢
    exact e
  · rw [BitVec.getLsbD_of_ge _ _ (by omega), BitVec.getLsbD_of_ge _ _ (by omega)]

/-- A word reached from `v` by flag updates only. -/
def Updated (c : Config) (v u : Word) : Prop :=
  SameReserved v u ∧ WordReserved c.flagsAlwaysSet u

theorem Updated.refl {c : Config} {v : Word} (hv : WordReserved c.flagsAlwaysSet v) :
    Updated c v v := ⟨.refl v, hv⟩

theorem Updated.putFlag {c : Config} (h : c.wf = true) {v u : Word} (hu : Updated c v u) (f : Flag)
    (b : Bool) : Updated c v (putFlag c.flagsAlwaysSet f b u) :=
  ⟨hu.1.trans (sameReserved_putFlag hu.2 f b), wordReserved_putFlag h f b u⟩

theorem Updated.szp {c : Config} (h : c.wf = true) {v u : Word} (hu : Updated c v u) {w : Nat}
    (r : BitVec w) : Updated c v (szpFlags c.flagsAlwaysSet r u) :=
  ((hu.putFlag h _ _).putFlag h _ _).putFlag h _ _

theorem Updated.add {c : Config} (h : c.wf = true) {v u : Word} (hu : Updated c v u) {w : Nat}
    (a b : BitVec w) (ci : Bool) : Updated c v (addFlags c.flagsAlwaysSet a b ci u) :=
  (((hu.putFlag h _ _).putFlag h _ _).putFlag h _ _).szp h _

theorem Updated.sub {c : Config} (h : c.wf = true) {v u : Word} (hu : Updated c v u) {w : Nat}
    (a b : BitVec w) (ci : Bool) : Updated c v (subFlags c.flagsAlwaysSet a b ci u) :=
  (((hu.putFlag h _ _).putFlag h _ _).putFlag h _ _).szp h _

theorem Updated.logic {c : Config} (h : c.wf = true) {v u : Word} (hu : Updated c v u) {w : Nat}
    (r : BitVec w) : Updated c v (logicFlags c.flagsAlwaysSet r u) :=
  ((hu.putFlag h _ _).putFlag h _ _).szp h _

theorem Updated.alu {c : Config} (h : c.wf = true) {v : Word}
    (hv : WordReserved c.flagsAlwaysSet v) {w : Nat} (k : AluOp) (a b : BitVec w) :
    Updated c v (aluFlags c.flagsAlwaysSet k a b v) := by
  have hr := Updated.refl hv
  cases k
  · exact hr.add h a b _
  · exact hr.logic h _
  · exact hr.add h a b _
  · exact hr.sub h a b _
  · exact hr.logic h _
  · exact hr.sub h a b _
  · exact hr.logic h _
  · exact hr.sub h a b _

theorem Updated.shift {c : Config} (h : c.wf = true) {v : Word}
    (hv : WordReserved c.flagsAlwaysSet v) {w : Nat} (k : ShiftOp) (n : Nat) (x r : BitVec w)
    (out : Bool) (d : Nat) : Updated c v (shiftFlags c.flagsAlwaysSet k n x r out d v) := by
  have hr := (Updated.refl hv).putFlag h .cf out
  unfold shiftFlags
  cases k.isShift
  · exact hr.putFlag h _ _
  · exact ((hr.szp h _).putFlag h _ _).putFlag h _ _

/-- Storing an updated word stores it as it is. -/
theorem State.flags_setFlags {s : State} {v u : Word} (hu : Updated s.cfg v u) :
    (s.setFlags u).regs.flags = u := flagsRule_eq_self hu.2

theorem FlagsReserved.word {s : State} (h : FlagsReserved s) :
    WordReserved s.cfg.flagsAlwaysSet s.regs.flags := h

/-- The reserved bits are kept where FLAGS is not written. -/
theorem ReservedKept.of_flags {s t : State} (h : t.regs.flags = s.regs.flags) :
    ReservedKept s t := fun _ _ => by rw [h]

/-- The reserved bits are kept where FLAGS is updated flag by flag. -/
theorem ReservedKept.of_updated {s t : State} {c : Config}
    (h : Updated c s.regs.flags t.regs.flags) : ReservedKept s t := h.1

end Sys2Proof.Machine
end

