-- ==== Sys2Proof/Laws/Effects.lean ====
section
/-! SUPPORT. What each shared operation of the meanings does, said once in the words of View: the
meanings' statements cite these lemmas. -/

namespace Sys2Proof.Machine

/-! ## FLAGS after operations that do not write it -/

@[simp] theorem State.flags_writeMem8 (s : State) (g o : Word) (v : Byte) :
    (s.writeMem8 g o v).regs.flags = s.regs.flags := by simp
@[simp] theorem State.flags_put8 (s : State) (l : Loc8) (v : Byte) :
    (s.put8 l v).regs.flags = s.regs.flags := by
  cases l <;> simp [State.put8, State.setR8]
@[simp] theorem State.flags_put16 (s : State) (l : Loc16) (v : Word) :
    (s.put16 l v).regs.flags = s.regs.flags := by
  cases l <;> simp [State.put16, State.setR16]
@[simp] theorem State.flags_setR8 (s : State) (r : Reg8) (v : Byte) :
    (s.setR8 r v).regs.flags = s.regs.flags := by simp [State.setR8]
@[simp] theorem State.flags_setR16 (s : State) (r : Reg16) (v : Word) :
    (s.setR16 r v).regs.flags = s.regs.flags := by simp [State.setR16]
@[simp] theorem State.flags_setSreg (s : State) (r : SReg) (v : Word) :
    (s.setSreg r v).regs.flags = s.regs.flags := by simp [State.setSreg]
@[simp] theorem State.flags_setIp (s : State) (v : Word) :
    (s.setIp v).regs.flags = s.regs.flags := rfl
@[simp] theorem State.flags_advance (s : State) (i : Instr) :
    (s.advance i).regs.flags = s.regs.flags := rfl

/-! ## Putting a statement together -/

theorem Shows.refl (s : State) : Shows s s s.view :=
  ⟨rfl, fun _ _ => rfl, rfl, rfl, rfl, rfl, rfl, rfl, rfl, rfl⟩

/-- The last act of an instruction that does not relocate. -/
theorem Shows.advance {s t : State} {v : View} (h : Shows s t v) {i : Instr}
    (hn : t.nextIp i = s.nextIp i) : Shows s (t.advance i) { v with ip := past s (encode i) } := by
  obtain ⟨hv, hr, hk⟩ := h
  refine ⟨?_, hr, hk⟩
  rw [State.view_advance, hv, hn, State.nextIp_eq_past]

/-- An instruction whose meaning ends in `advance`. -/
theorem Advances.of_shows {s t : State} {v : View} {i : Instr} {bytes : List Byte}
    (he : encode i = bytes) (hx : exec i s = .next (t.advance i)) (h : Shows s t v)
    (hn : t.nextIp i = s.nextIp i) : Advances s i bytes v := by
  subst he
  exact ⟨rfl, _, hx, h.advance hn⟩

/-! ## Writes of one operand -/

theorem Shows.setR8 (s : State) (r : Reg8) (b : Byte) :
    Shows s (s.setR8 r b) (s.view.setByte r b) :=
  ⟨State.view_setR8 s r b, .of_flags (by simp), by simp [Keeps]⟩

theorem Shows.setR16 (s : State) (r : Reg16) (w : Word) :
    Shows s (s.setR16 r w) (s.view.setGen r w) :=
  ⟨State.view_setR16 s r w, .of_flags (by simp), by simp [Keeps]⟩

theorem Shows.setSreg (s : State) (r : SReg) (w : Word) :
    Shows s (s.setSreg r w) (s.view.setSeg r w) :=
  ⟨State.view_setSreg s r w, .of_flags (by simp), by simp [Keeps]⟩

theorem Shows.writeMem8 {s : State} (h : CpuOk s) (seg off : Word) (b : Byte) :
    Shows s (s.writeMem8 seg off b) (s.view.store8 s.cfg seg off b) :=
  ⟨State.view_writeMem8 h.2.1 seg off b, .of_flags (by simp), by simp [Keeps]⟩

theorem Shows.writeMem16 {s : State} (h : CpuOk s) (seg off w : Word) :
    Shows s (s.writeMem16 seg off w) (s.view.store16 s.cfg seg off w) :=
  ⟨State.view_writeMem16 h.2.1 seg off w, .of_flags (by simp), by simp [Keeps]⟩

theorem Shows.put8 {s : State} (h : CpuOk s) (l : Loc8) (b : Byte) :
    Shows s (s.put8 l b) (s.view.put8 s.cfg l b) :=
  ⟨State.view_put8 h.2.1 l b, .of_flags (by simp), by simp [Keeps]⟩

theorem Shows.put16 {s : State} (h : CpuOk s) (l : Loc16) (w : Word) :
    Shows s (s.put16 l w) (s.view.put16 s.cfg l w) :=
  ⟨State.view_put16 h.2.1 l w, .of_flags (by simp), by simp [Keeps]⟩

theorem Shows.push {s : State} (h : CpuOk s) (w : Word) :
    Shows s (s.push w) (s.view.push s.cfg w) :=
  ⟨State.view_push h.2.1 w, .of_flags (by simp), by simp [Keeps]⟩

theorem Shows.pop (s : State) : Shows s s.pop.2 s.view.drop :=
  ⟨State.view_pop s, .of_flags (by simp), by simp [Keeps]⟩

/-! ## Flag updates -/

/-- After `setFlags` of an updated word the flags are the word's and nothing else changes. -/
theorem State.view_setFlags_getD {t : State} (hc : t.cfg.wf = true) (v : Word)
    (g : Flag → Option Bool) (hg : ∀ f, getFlag f v = (g f).getD (getFlag f t.regs.flags)) :
    (t.setFlags v).view = t.view.setFlags g := by
  rw [State.view_setFlags hc]
  simp only [View.setFlagWord, View.setFlags, View.mk.injEq, true_and, and_true]
  funext f
  exact hg f

theorem Shows.setFlags {s t : State} (h : CpuOk s) (v : Word) (u : View)
    (hf : t.regs.flags = s.regs.flags) (hk : Keeps s t) (hu : t.view = u)
    (hv : Updated s.cfg s.regs.flags v) (g : Flag → Option Bool)
    (hg : ∀ f, getFlag f v = (g f).getD (getFlag f s.regs.flags)) :
    Shows s (t.setFlags v) (u.setFlags g) := by
  have hcfg : t.cfg = s.cfg := hk.2.2.1
  refine ⟨?_, ?_, by simpa [Keeps] using hk⟩
  · rw [State.view_setFlags_getD (by rw [hcfg]; exact h.1) v g (by rw [hf]; exact hg), hu]
  · have : (t.setFlags v).regs.flags = v := by
      have := flagsRule_eq_self hv.2
      simpa [State.setFlags, hcfg] using this
    exact ReservedKept.of_updated (by rw [this]; exact hv)

theorem Shows.setFlag {s : State} (h : CpuOk s) (f : Flag) (b : Bool) :
    Shows s (s.setFlag f b) (s.view.setFlag f b) := by
  refine ⟨State.view_setFlag h.1 f b, ?_, by simp [Keeps]⟩
  have hu : Updated s.cfg s.regs.flags (putFlag s.cfg.flagsAlwaysSet f b s.regs.flags) :=
    (Updated.refl h.2.2).putFlag h.1 f b
  exact ReservedKept.of_updated (by rw [State.setFlag, State.flags_eq, State.flags_setFlags hu]; exact hu)

theorem Shows.test {s : State} (h : CpuOk s) {w : Nat} (a b : BitVec w) :
    Shows s (s.test a b) (s.view.setFlags (logicFlag (a &&& b))) :=
  Shows.setFlags h _ _ rfl (by simp [Keeps]) rfl ((Updated.refl h.2.2).logic h.1 _) _
    (getFlag_logicFlags_eq h.1 _ _)

theorem Shows.alu8 {s : State} (h : CpuOk s) (k : AluOp) (l : Loc8) (a b : Byte) :
    Shows s (s.alu8 k l a b) (s.view.alu8 s.cfg k l a b) := by
  unfold State.alu8 View.alu8
  rw [aluResult_eq]
  by_cases hk : k = .cmp
  · simp only [hk, if_true]
    exact Shows.setFlags h _ _ rfl (by simp [Keeps]) rfl (.alu h.1 h.2.2 .cmp a b) _
      (getFlag_aluFlags h.1 (by decide) _ _ _ _)
  · simp only [hk, if_false]
    exact Shows.setFlags h _ _ (by simp) (by simp [Keeps]) (State.view_put8 h.2.1 l _)
      (.alu h.1 h.2.2 k a b) _ (getFlag_aluFlags h.1 (by decide) _ _ _ _)

theorem Shows.alu16 {s : State} (h : CpuOk s) (k : AluOp) (l : Loc16) (a b : Word) :
    Shows s (s.alu16 k l a b) (s.view.alu16 s.cfg k l a b) := by
  unfold State.alu16 View.alu16
  rw [aluResult_eq]
  by_cases hk : k = .cmp
  · simp only [hk, if_true]
    exact Shows.setFlags h _ _ rfl (by simp [Keeps]) rfl (.alu h.1 h.2.2 .cmp a b) _
      (getFlag_aluFlags h.1 (by decide) _ _ _ _)
  · simp only [hk, if_false]
    exact Shows.setFlags h _ _ (by simp) (by simp [Keeps]) (State.view_put16 h.2.1 l _)
      (.alu h.1 h.2.2 k a b) _ (getFlag_aluFlags h.1 (by decide) _ _ _ _)

theorem Updated.inc {c : Config} (h : c.wf = true) {v : Word}
    (hv : WordReserved c.flagsAlwaysSet v) {w : Nat} (a : BitVec w) :
    Updated c v (incFlags c.flagsAlwaysSet a v) :=
  ((Updated.refl hv).add h _ _ _).putFlag h _ _

theorem Updated.dec {c : Config} (h : c.wf = true) {v : Word}
    (hv : WordReserved c.flagsAlwaysSet v) {w : Nat} (a : BitVec w) :
    Updated c v (decFlags c.flagsAlwaysSet a v) :=
  ((Updated.refl hv).sub h _ _ _).putFlag h _ _

theorem Shows.inc8 {s : State} (h : CpuOk s) (l : Loc8) :
    Shows s (s.inc8 l) ((s.view.put8 s.cfg l (s.get8 l + 1)).setFlags
      (keepCarry (addFlag (s.get8 l) 1 false (s.get8 l + 1)))) := by
  unfold State.inc8
  rw [addResult_false]
  exact Shows.setFlags h _ _ (by simp) (by simp [Keeps]) (State.view_put8 h.2.1 l _)
    (.inc h.1 h.2.2 _) _ (getFlag_incFlags h.1 (by decide) _ _)

theorem Shows.inc16 {s : State} (h : CpuOk s) (l : Loc16) :
    Shows s (s.inc16 l) ((s.view.put16 s.cfg l (s.get16 l + 1)).setFlags
      (keepCarry (addFlag (s.get16 l) 1 false (s.get16 l + 1)))) := by
  unfold State.inc16
  rw [addResult_false]
  exact Shows.setFlags h _ _ (by simp) (by simp [Keeps]) (State.view_put16 h.2.1 l _)
    (.inc h.1 h.2.2 _) _ (getFlag_incFlags h.1 (by decide) _ _)

theorem Shows.dec8 {s : State} (h : CpuOk s) (l : Loc8) :
    Shows s (s.dec8 l) ((s.view.put8 s.cfg l (s.get8 l - 1)).setFlags
      (keepCarry (subFlag (s.get8 l) 1 false (s.get8 l - 1)))) := by
  unfold State.dec8
  rw [subResult_false]
  exact Shows.setFlags h _ _ (by simp) (by simp [Keeps]) (State.view_put8 h.2.1 l _)
    (.dec h.1 h.2.2 _) _ (getFlag_decFlags h.1 (by decide) _ _)

theorem Shows.dec16 {s : State} (h : CpuOk s) (l : Loc16) :
    Shows s (s.dec16 l) ((s.view.put16 s.cfg l (s.get16 l - 1)).setFlags
      (keepCarry (subFlag (s.get16 l) 1 false (s.get16 l - 1)))) := by
  unfold State.dec16
  rw [subResult_false]
  exact Shows.setFlags h _ _ (by simp) (by simp [Keeps]) (State.view_put16 h.2.1 l _)
    (.dec h.1 h.2.2 _) _ (getFlag_decFlags h.1 (by decide) _ _)

theorem Shows.neg8 {s : State} (h : CpuOk s) (l : Loc8) :
    Shows s (s.neg8 l) ((s.view.put8 s.cfg l (0 - s.get8 l)).setFlags
      (subFlag 0 (s.get8 l) false (0 - s.get8 l))) := by
  unfold State.neg8
  rw [subResult_false]
  exact Shows.setFlags h _ _ (by simp) (by simp [Keeps]) (State.view_put8 h.2.1 l _)
    ((Updated.refl h.2.2).sub h.1 _ _ _) _
    (fun f => by rw [getFlag_subFlags_eq h.1 (by decide), subResult_false])

theorem Shows.neg16 {s : State} (h : CpuOk s) (l : Loc16) :
    Shows s (s.neg16 l) ((s.view.put16 s.cfg l (0 - s.get16 l)).setFlags
      (subFlag 0 (s.get16 l) false (0 - s.get16 l))) := by
  unfold State.neg16
  rw [subResult_false]
  exact Shows.setFlags h _ _ (by simp) (by simp [Keeps]) (State.view_put16 h.2.1 l _)
    ((Updated.refl h.2.2).sub h.1 _ _ _) _
    (fun f => by rw [getFlag_subFlags_eq h.1 (by decide), subResult_false])

end Sys2Proof.Machine
end

