-- ==== Sys2Proof/Laws/Step.lean ====
section
/-! SUPPORT. What one round of the execute cycle, one `execute()` and one step can do, each said once,
and the induction over the prefixes of an instruction. -/

namespace Sys2Proof.Machine

/-! ## Prefix bytes (30_encoding.md R140) -/

theorem Row.segPrefixByte_eq (r : SReg) :
    Row.segPrefixByte r = 0x26#8 ||| r.code3.setWidth 8 <<< 3 := by cases r <;> rfl

theorem isPrefixByte_iff (b : Byte) : isPrefixByte b = true ↔ ∃ r, b = Row.segPrefixByte r := by
  constructor
  · intro h
    simp only [isPrefixByte, Bool.or_eq_true, beq_iff_eq] at h
    rcases h with ((h | h) | h) | h
    · exact ⟨.es, h⟩
    · exact ⟨.cs, h⟩
    · exact ⟨.ss, h⟩
    · exact ⟨.ds, h⟩
  · rintro ⟨r, rfl⟩
    cases r <;> rfl

theorem decode_segPrefixByte (r : SReg) (rest : List Byte) :
    decode (Row.segPrefixByte r :: rest) = .ok (Row.segPrefix r, rest) := by cases r <;> rfl

theorem exec_segPrefix (r : SReg) (s : State) :
    exec (Row.segPrefix r) s = .next (s.takePrefix r) := by cases r <;> rfl

theorem State.fetchBytes_cons (s : State) : ∃ r, s.fetchBytes = s.fetchByte 0 :: r := ⟨_, rfl⟩

/-- Before any prefix is read there is no prefix byte. -/
theorem State.prefixBytes_of_idle {s : State} (h : s.prefixLen = 0) : s.prefixBytes = [] := by
  simp [State.prefixBytes, h]

/-- The prefix bytes read are those of the prefixes. -/
theorem prefixBytes_of_afterPrefixes {s u : State} {ps : List SReg} (h : AfterPrefixes s ps u) :
    u.prefixBytes = ps.map Row.segPrefixByte := by
  obtain ⟨hlen, hbytes, rfl, -⟩ := h
  have hn : (BitVec.ofNat 16 ps.length).toNat = ps.length := by
    rw [BitVec.toNat_ofNat]
    exact Nat.mod_eq_of_lt hlen
  refine List.ext_getElem (by simp [State.prefixBytes, hn]) fun k h1 h2 => ?_
  have hk : k < ps.length := by simpa using h2
  simp only [State.prefixBytes, List.getElem_map, List.getElem_range, Row.segPrefixByte_eq]
  exact hbytes k hk

/-! ## What the parameters take out (00_scope.md R10, 30_encoding.md R183) -/

/-- Parameters that take nothing out add no fault. -/
theorem parameterFault_of_full {c : Config} (hm : c.regOnlyRows = []) (hr : c.removedRows = [])
    (prefixes bytes : List Byte) : parameterFault c prefixes bytes = none := by
  have hf : prefixes.find? (fun _ => false) = none := by simp
  simp [parameterFault, hm, hr, hf]

/-- A prefix whose row is taken out is no prefix that a fault-free cycle has read. -/
theorem parameterFault_none_prefixes {c : Config} {prefixes bytes : List Byte}
    (h : parameterFault c prefixes bytes = none) :
    ∀ b ∈ prefixes, (⟨b, none⟩ : RowId) ∉ c.removedRows := by
  cases hf : prefixes.find? fun b => c.removedRows.contains ⟨b, none⟩ with
  | none =>
    intro b hb
    simpa using List.find?_eq_none.1 hf b hb
  | some x =>
    simp only [parameterFault, hf] at h
    split_ifs at h

/-! ## One round of the cycle (30_encoding.md R131) -/

/-- At a prefix byte the round takes it and the cycle goes on. -/
theorem runCycle_prefix {n : Nat} {s : State} {r : SReg}
    (h : s.fetchByte 0 = Row.segPrefixByte r) :
    runCycle (n + 1) s = runCycle n (s.takePrefix r) := by
  have hd : decode s.fetchBytes = .ok (Row.segPrefix r, s.fetchBytes.tail) := by
    show decode (s.fetchByte 0 :: _) = _
    rw [h]
    exact decode_segPrefixByte r _
  have hp : isPrefixByte (s.fetchByte 0) = true := (isPrefixByte_iff _).2 ⟨r, h⟩
  simp [runCycle, hd, hp, exec_segPrefix]

/-- At bytes that decode to no prefix and that no parameter takes out, the round performs the
instruction. -/
theorem runCycle_perform {n : Nat} {s : State} {i : Instr} {rest : List Byte}
    (hd : decode s.fetchBytes = .ok (i, rest)) (hp : isPrefixByte (s.fetchByte 0) = false)
    (hc : parameterFault s.cfg s.prefixBytes s.fetchBytes = none) :
    runCycle (n + 1) s = perform i s := by
  simp [runCycle, hd, hp, hc]

/-- At bytes that the decoder refuses, the round takes the fault. -/
theorem runCycle_refused {n : Nat} {s : State} {f : EmulationFault}
    (hd : decode s.fetchBytes = .error (.fault f)) :
    runCycle (n + 1) s = .next (s.idleCycle.emulationFault f) := by
  simp [runCycle, hd]

/-- At an instruction that a parameter takes out, the round takes the fault. -/
theorem runCycle_removed {n : Nat} {s : State} {i : Instr} {rest : List Byte} {f : EmulationFault}
    (hd : decode s.fetchBytes = .ok (i, rest)) (hp : isPrefixByte (s.fetchByte 0) = false)
    (hc : parameterFault s.cfg s.prefixBytes s.fetchBytes = some f) :
    runCycle (n + 1) s = .next (s.idleCycle.emulationFault f) := by
  simp [runCycle, hd, hp, hc]

/-- What an instruction performed leaves. -/
theorem perform_next {i : Instr} {s t : State} (h : perform i s = .next t) :
    ∃ u, exec i (s.trace i) = .next u ∧ t = u.idleCycle := by
  unfold perform at h
  split at h
  · cases h
    exact ⟨_, ‹_›, rfl⟩
  · cases h
  · cases h

/-- All that one round can do when the cycle ends in a next state. -/
theorem runCycle_cases {n : Nat} {s t : State} (h : runCycle (n + 1) s = .next t) :
    (∃ r, s.fetchByte 0 = Row.segPrefixByte r ∧ runCycle n (s.takePrefix r) = .next t) ∨
      (∃ f, t = s.idleCycle.emulationFault f) ∨
      ∃ i rest u, decode s.fetchBytes = .ok (i, rest) ∧ isPrefixByte (s.fetchByte 0) = false ∧
        parameterFault s.cfg s.prefixBytes s.fetchBytes = none ∧ exec i (s.trace i) = .next u ∧
        t = u.idleCycle := by
  cases hp : isPrefixByte (s.fetchByte 0) with
  | true =>
    obtain ⟨r, hr⟩ := (isPrefixByte_iff _).1 hp
    rw [runCycle_prefix hr] at h
    exact .inl ⟨r, hr, h⟩
  | false =>
    right
    rcases hd : decode s.fetchBytes with (f | _) | ⟨i, rest⟩
    · rw [runCycle_refused hd] at h
      cases h
      exact .inl ⟨f, rfl⟩
    · simp [runCycle, hd] at h
    · cases hc : parameterFault s.cfg s.prefixBytes s.fetchBytes with
      | some f =>
        rw [runCycle_removed hd hp hc] at h
        cases h
        exact .inl ⟨f, rfl⟩
      | none =>
        rw [runCycle_perform hd hp hc] at h
        obtain ⟨u, hu, rfl⟩ := perform_next h
        exact .inr ⟨i, rest, u, rfl, rfl, rfl, hu, rfl⟩

/-- The induction over a cycle: what every prefix taken, every trace record, every decoded
instruction, the fault entry and the close of the cycle keep, the cycle keeps. -/
theorem runCycle_induction {P : State → Prop}
    (hprefix : ∀ s r, P s → P (s.takePrefix r))
    (hfault : ∀ s f, P s → P (s.idleCycle.emulationFault f))
    (hexec : ∀ s i rest u, P s → decode s.fetchBytes = .ok (i, rest) →
      exec i (s.trace i) = .next u → P u.idleCycle)
    {n : Nat} {s t : State} (hs : P s) (h : runCycle n s = .next t) : P t := by
  induction n generalizing s with
  | zero => cases h
  | succ n ih =>
    rcases runCycle_cases h with ⟨r, -, h⟩ | ⟨f, rfl⟩ | ⟨i, rest, u, hd, -, -, hu, rfl⟩
    · exact ih (hprefix s r hs) h
    · exact hfault s f hs
    · exact hexec s i rest u hs hd hu

/-- A run of prefix bytes: the cycle takes them all and goes on, the last one deciding. -/
theorem runCycle_prefixes (s : State) (ps : List SReg) (n : Nat)
    (h : ∀ k (hk : k < ps.length), s.fetchByte k = Row.segPrefixByte ps[k]) :
    runCycle (n + ps.length) s = runCycle n { s with
      segOvr := ps.getLast?.or s.segOvr
      prefixLen := s.prefixLen + BitVec.ofNat 16 ps.length } := by
  induction ps generalizing s with
  | nil => simp
  | cons p ps ih =>
    have h0 : s.fetchByte 0 = Row.segPrefixByte p := h 0 (by simp)
    rw [List.length_cons, ← Nat.add_assoc, runCycle_prefix h0, ih (s.takePrefix p)]
    · congr 1
      simp only [State.takePrefix]
      congr 1
      · cases ps with
        | nil => simp
        | cons q l => cases hl : (q :: l).getLast? <;> simp_all
      · rw [BitVec.ofNat_add, add_assoc, add_comm 1#16]
    · intro k hk
      have hb := h (k + 1) (by simpa using hk)
      have ho : s.regs.ip + (s.prefixLen + 1#16) + BitVec.ofNat 16 k =
          s.regs.ip + s.prefixLen + BitVec.ofNat 16 (k + 1) := by
        rw [BitVec.ofNat_add]
        ac_rfl
      rw [List.getElem_cons_succ] at hb
      rw [← hb]
      simp only [State.fetchByte, State.takePrefix, State.readMem8, State.memRead, ho]

/-! ## execute() and a step -/

theorem execute_eq {s : State} (h : s.faultStatus = false) :
    execute s = runCycle 65536 s.idleCycle := by simp [execute, h]

/-- `execute()` after any prefixes is the cycle on what follows them. -/
theorem execute_afterPrefixes {s u : State} {ps : List SReg} (hf : s.faultStatus = false)
    (h : AfterPrefixes s ps u) :
    ∃ n, execute s = runCycle (n + 1) u ∧ isPrefixByte (u.fetchByte 0) = false ∧
      u.cfg = s.cfg := by
  obtain ⟨hlen, hbytes, rfl, hend⟩ := h
  obtain ⟨n, hn⟩ : ∃ n, 65536 = n + 1 + ps.length := ⟨65535 - ps.length, by omega⟩
  refine ⟨n, ?_, by simpa [isPrefixByte, and_assoc] using hend, rfl⟩
  rw [execute_eq hf, hn, runCycle_prefixes]
  · simp [State.idleCycle]
  · intro k hk
    rw [Row.segPrefixByte_eq, ← hbytes k hk]
    simp [State.fetchByte, State.idleCycle, State.readMem8, State.memRead]

theorem execute_next {s t : State} (h : execute s = .next t) :
    s.faultStatus = false ∧ runCycle 65536 s.idleCycle = .next t := by
  unfold execute at h
  cases hf : s.faultStatus
  · simp only [hf] at h
    exact ⟨rfl, h⟩
  · simp [hf] at h

theorem step_execute {s : State} (h : s.schedule = []) : step s = execute s := by
  unfold step
  rw [h]

theorem step_hostCall {s : State} {c : HostCall} {r : List HostCall} (h : s.schedule = c :: r) :
    step s = hostCall c { s with schedule := r } := by
  unfold step
  rw [h]

theorem idleCycle_of_idle {s : State} (h : CycleIdle s) : s.idleCycle = s := by
  cases s
  obtain ⟨h1, h2⟩ := h
  simp only at h1 h2
  subst h1
  subst h2
  rfl

/-- All that a call of the host can do. -/
theorem hostCall_cases {c : HostCall} {s t : State} (h : hostCall c s = .next t) :
    execute s = .next t ∨ t = s ∨ (∃ p, t = { s with pit := p }) ∨ (∃ p, t = { s with pic := p }) ∨
      t = s.hostAcknowledge ∨ ∃ v, s.pic.acknowledge.1 = some v ∧
        t = State.interrupt { s with pic := s.pic.acknowledge.2 } v s.regs.ip := by
  cases c with
  | execute => exact .inl h
  | tick => cases h; exact .inr (.inr (.inl ⟨_, rfl⟩))
  | setInterrupt irq => cases h; exact .inr (.inr (.inr (.inl ⟨_, rfl⟩)))
  | acknowledgeInterrupt => cases h; exact .inr (.inr (.inr (.inr (.inl rfl))))
  | setGate g l => cases h; cases g <;> exact .inr (.inr (.inl ⟨_, rfl⟩))
  | deliverInterrupt =>
    simp only [hostCall, Host.Outcome.next.injEq] at h
    subst h
    unfold State.deliverInterrupt
    split
    · exact .inr (.inl rfl)
    · split
      · exact .inr (.inl rfl)
      · split
        · exact .inr (.inl rfl)
        · split
          · next v p hv =>
            right; right; right; right; right
            exact ⟨v, by rw [hv], by rw [hv]⟩
          · exact .inr (.inl rfl)

end Sys2Proof.Machine
end

