-- ==== Sys2Proof/Laws/Transfers.lean ====
section
/-! SUPPORT. What the shift group's shared operations, the interrupt entry, the return from an
interrupt and the jumps do, said once in the words of View. -/

namespace Sys2Proof.Machine

/-! ## Shifts and rotates (42_shift_rotate.md R301 to R309) -/

theorem State.shift8_zero (s : State) (k : ShiftOp) (e : Ea8) : s.shift8 k 0 e = s := by
  simp [State.shift8]

theorem State.shift16_zero (s : State) (k : ShiftOp) (e : Ea16) : s.shift16 k 0 e = s := by
  simp [State.shift16]

/-- `shiftop` on a byte operand with a count of 1 or more. -/
theorem Shows.shift8 {s : State} (h : CpuOk s) (k : ShiftOp) {n : Nat} (hn : n ≠ 0) (e : Ea8) :
    let x := s.get8 (s.locate8 e)
    let p := manySteps k n x (getFlag .cf s.regs.flags)
    ∃ o a : Bool, (n = 1 → o = overflowAfterOne k x p.1 p.2) ∧
      Shows s { s.shift8 k n e with draws := s.draws }
        ((s.view.put8 s.cfg (s.locate8 e) p.1).setFlags (shiftFlag k p.1 p.2 o a)) := by
  intro x p
  refine ⟨if n = 1 then overflowAfterOne k x p.1 p.2 else Config.drawShiftOf s.draws,
    Config.drawShiftAf s.draws, fun h1 => by simp [h1], ?_⟩
  have he : { s.shift8 k n e with draws := s.draws } =
      (s.put8 (s.locate8 e) p.1).setFlags
        (shiftFlags s.cfg.flagsAlwaysSet k n x p.1 p.2 s.draws s.regs.flags) := by
    simp only [State.shift8, hn, if_false, shiftSteps_eq (by decide : 2 ≤ 8), State.flag_eq,
      State.flags_eq]
    cases hd : ((s.put8 (s.locate8 e) p.1).setFlags
      (shiftFlags s.cfg.flagsAlwaysSet k n x p.1 p.2 s.draws s.regs.flags)) with
    | mk _ _ _ _ _ _ _ _ _ d _ _ =>
      have : d = s.draws := by
        have := congrArg State.draws hd
        simpa using this.symm
      subst this
      rfl
  rw [he]
  exact Shows.setFlags h _ _ (by simp) (by simp [Keeps]) (State.view_put8 h.2.1 _ _)
    (.shift h.1 h.2.2 k n x p.1 p.2 s.draws) _ (getFlag_shiftFlags_eq h.1 k n x p.1 p.2 _ _)

/-- `shiftop` on a word operand with a count of 1 or more. -/
theorem Shows.shift16 {s : State} (h : CpuOk s) (k : ShiftOp) {n : Nat} (hn : n ≠ 0) (e : Ea16) :
    let x := s.get16 (s.locate16 e)
    let p := manySteps k n x (getFlag .cf s.regs.flags)
    ∃ o a : Bool, (n = 1 → o = overflowAfterOne k x p.1 p.2) ∧
      Shows s { s.shift16 k n e with draws := s.draws }
        ((s.view.put16 s.cfg (s.locate16 e) p.1).setFlags (shiftFlag k p.1 p.2 o a)) := by
  intro x p
  refine ⟨if n = 1 then overflowAfterOne k x p.1 p.2 else Config.drawShiftOf s.draws,
    Config.drawShiftAf s.draws, fun h1 => by simp [h1], ?_⟩
  have he : { s.shift16 k n e with draws := s.draws } =
      (s.put16 (s.locate16 e) p.1).setFlags
        (shiftFlags s.cfg.flagsAlwaysSet k n x p.1 p.2 s.draws s.regs.flags) := by
    simp only [State.shift16, hn, if_false, shiftSteps_eq (by decide : 2 ≤ 16), State.flag_eq,
      State.flags_eq]
    cases hd : ((s.put16 (s.locate16 e) p.1).setFlags
      (shiftFlags s.cfg.flagsAlwaysSet k n x p.1 p.2 s.draws s.regs.flags)) with
    | mk _ _ _ _ _ _ _ _ _ d _ _ =>
      have : d = s.draws := by
        have := congrArg State.draws hd
        simpa using this.symm
      subst this
      rfl
  rw [he]
  exact Shows.setFlags h _ _ (by simp) (by simp [Keeps]) (State.view_put16 h.2.1 _ _)
    (.shift h.1 h.2.2 k n x p.1 p.2 s.draws) _ (getFlag_shiftFlags_eq h.1 k n x p.1 p.2 _ _)

/-! ## Chaining -/

theorem Keeps.trans {s t u : State} (h : Keeps s t) (k : Keeps t u) : Keeps s u := by
  unfold Keeps at *
  simp_all

theorem Shows.keeps {s t : State} {v : View} (h : Shows s t v) : Keeps s t := h.2.2

/-- An effect after an effect. -/
theorem Shows.trans {s t u : State} {v w : View} (h : Shows s t v) (k : Shows t u w) :
    Shows s u w :=
  ⟨k.1, fun n hn => (k.2.1 n hn).trans (h.2.1 n hn), h.2.2.trans k.2.2⟩

/-! ## Interrupts and control transfer (60_exceptions.md R410; 43_control_transfer.md) -/

/-- `interrupt(n, ret)` (60_exceptions.md R410). -/
theorem Shows.interrupt {s : State} (h : CpuOk s) (n : Byte) (ret : Word) :
    Shows s (s.interrupt n ret) (s.view.enter s.cfg s.regs.flags n ret) := by
  refine ⟨State.view_interrupt h.1 h.2.1 n ret, ?_, by simp [Keeps]⟩
  have hu : Updated s.cfg s.regs.flags
      (putFlag s.cfg.flagsAlwaysSet .tf false
        (putFlag s.cfg.flagsAlwaysSet .ifl false s.regs.flags)) :=
    ((Updated.refl h.2.2).putFlag h.1 _ _).putFlag h.1 _ _
  refine ReservedKept.of_updated (c := s.cfg) ?_
  have : (s.interrupt n ret).regs.flags = putFlag s.cfg.flagsAlwaysSet .tf false
      (putFlag s.cfg.flagsAlwaysSet .ifl false s.regs.flags) := by
    simp [State.interrupt, State.setFlag, State.setFlags]
  rw [this]
  exact hu

/-- The view after a return from an interrupt (43_control_transfer.md R368). -/
theorem State.view_interruptReturn {s : State} (hc : s.cfg.wf = true) :
    s.interruptReturn.view =
      { (s.view.drop.drop.drop.setSeg .cs (s.view.drop.top s.cfg)).setFlagWord
          (s.view.drop.drop.top s.cfg) with ip := s.view.top s.cfg } := by
  simp only [State.interruptReturn]
  rw [State.view_setFlags (by simpa using hc), State.view_setSreg, State.view_setIp,
    State.view_pop, State.view_pop, State.view_pop, State.fst_pop, State.fst_pop, State.fst_pop,
    State.view_pop, State.view_pop]
  simp [View.setSeg, View.setFlagWord, State.view_pop]

/-- A jump to a relative target, taken or not. -/
theorem Shows.jumpIf (s : State) (taken : Bool) (i : Instr) (d : Byte) :
    Shows s (s.jumpIf taken i d)
      { s.view with ip := if taken then past s (encode i) + d.signExtend 16 else past s (encode i) } := by
  unfold State.jumpIf
  cases taken
  · exact ⟨rfl, fun _ _ => rfl, by simp [Keeps]⟩
  · exact ⟨rfl, fun _ _ => rfl, by simp [Keeps]⟩

end Sys2Proof.Machine
end

