-- ==== Sys2Proof/Laws/Invariants.lean ====
section
/-! SUPPORT. Every shared operation keeps `Sound`: parameters well-formed, memory canonical, FLAGS with
its reserved bits, controller and timer in legal states. -/

namespace Sys2Proof.Machine

theorem Sound.of_same {s t : State} (h : Sound s) (hc : t.cfg = s.cfg) (hm : t.mem = s.mem)
    (hf : t.regs.flags = s.regs.flags) (hpic : t.pic = s.pic) (hpit : t.pit = s.pit) : Sound t := by
  unfold Sound CpuOk FlagsReserved at *
  rw [hc, hm, hf, hpic, hpit]
  exact h

/-! ## Registers and the bookkeeping of a cycle -/

theorem Sound.setR8 {s : State} (h : Sound s) (r : Reg8) (b : Byte) : Sound (s.setR8 r b) :=
  h.of_same rfl rfl (by simp) rfl rfl

theorem Sound.setR16 {s : State} (h : Sound s) (r : Reg16) (w : Word) : Sound (s.setR16 r w) :=
  h.of_same rfl rfl (by simp) rfl rfl

theorem Sound.setSreg {s : State} (h : Sound s) (r : SReg) (w : Word) : Sound (s.setSreg r w) :=
  h.of_same rfl rfl (by simp) rfl rfl

theorem Sound.setIp {s : State} (h : Sound s) (w : Word) : Sound (s.setIp w) :=
  h.of_same rfl rfl rfl rfl rfl

theorem Sound.advance {s : State} (h : Sound s) (i : Instr) : Sound (s.advance i) := h.setIp _

theorem Sound.trace {s : State} (h : Sound s) (i : Instr) : Sound (s.trace i) :=
  h.of_same rfl rfl rfl rfl rfl

theorem Sound.takePrefix {s : State} (h : Sound s) (r : SReg) : Sound (s.takePrefix r) :=
  h.of_same rfl rfl rfl rfl rfl

theorem Sound.idleCycle {s : State} (h : Sound s) : Sound s.idleCycle :=
  h.of_same rfl rfl rfl rfl rfl

theorem Sound.emulationFault {s : State} (h : Sound s) (f : EmulationFault) :
    Sound (s.emulationFault f) := h.of_same rfl rfl rfl rfl rfl

theorem Sound.pop {s : State} (h : Sound s) : Sound s.pop.2 := h.setR16 _ _

theorem Sound.countCx {s : State} (h : Sound s) : Sound s.countCx := h.setR16 _ _

theorem Sound.jumpIf {s : State} (h : Sound s) (taken : Bool) (i : Instr) (d : Byte) :
    Sound (s.jumpIf taken i d) := by
  cases taken
  · exact h.advance i
  · exact h.setIp _

/-! ## Flags -/

theorem Sound.setFlags {s : State} (h : Sound s) (v : Word) : Sound (s.setFlags v) :=
  ⟨⟨h.1.1, h.1.2.1, wordReserved_flagsRule h.1.1 v⟩, h.2⟩

theorem Sound.setFlag {s : State} (h : Sound s) (f : Flag) (b : Bool) : Sound (s.setFlag f b) :=
  h.setFlags _

theorem Sound.test {s : State} (h : Sound s) {w : Nat} (a b : BitVec w) : Sound (s.test a b) :=
  h.setFlags _

/-! ## Memory -/

theorem Sound.writeMem8 {s : State} (h : Sound s) (seg off : Word) (b : Byte) :
    Sound (s.writeMem8 seg off b) := by
  have hc : (s.writeMem8 seg off b).cfg = s.cfg := by simp
  refine ⟨⟨by rw [hc]; exact h.1.1, State.wf_writeMem8 h.1.2.1 _ _ _, ?_⟩, ?_, ?_⟩
  · unfold FlagsReserved
    rw [hc, State.flags_writeMem8]
    exact h.1.2.2
  · have : (s.writeMem8 seg off b).pic = s.pic := by simp
    rw [this]
    exact h.2.1
  · have : (s.writeMem8 seg off b).pit = s.pit := by simp
    rw [this]
    exact h.2.2

theorem Sound.writeMem16 {s : State} (h : Sound s) (seg off w : Word) :
    Sound (s.writeMem16 seg off w) := (h.writeMem8 _ _ _).writeMem8 _ _ _

theorem Sound.put8 {s : State} (h : Sound s) (l : Loc8) (b : Byte) : Sound (s.put8 l b) := by
  cases l
  · exact h.setR8 _ b
  · exact h.writeMem8 _ _ b

theorem Sound.put16 {s : State} (h : Sound s) (l : Loc16) (w : Word) : Sound (s.put16 l w) := by
  cases l
  · exact h.setR16 _ w
  · exact h.writeMem16 _ _ w

theorem Sound.push {s : State} (h : Sound s) (w : Word) : Sound (s.push w) :=
  (h.setR16 _ _).writeMem16 _ _ _

/-! ## Arithmetic, logic, shifts -/

theorem Sound.alu8 {s : State} (h : Sound s) (k : AluOp) (l : Loc8) (a b : Byte) :
    Sound (s.alu8 k l a b) := by
  unfold State.alu8
  dsimp only
  split
  · exact (h.put8 _ _).setFlags _
  · exact h.setFlags _

theorem Sound.alu16 {s : State} (h : Sound s) (k : AluOp) (l : Loc16) (a b : Word) :
    Sound (s.alu16 k l a b) := by
  unfold State.alu16
  dsimp only
  split
  · exact (h.put16 _ _).setFlags _
  · exact h.setFlags _

theorem Sound.inc8 {s : State} (h : Sound s) (l : Loc8) : Sound (s.inc8 l) :=
  (h.put8 _ _).setFlags _
theorem Sound.inc16 {s : State} (h : Sound s) (l : Loc16) : Sound (s.inc16 l) :=
  (h.put16 _ _).setFlags _
theorem Sound.dec8 {s : State} (h : Sound s) (l : Loc8) : Sound (s.dec8 l) :=
  (h.put8 _ _).setFlags _
theorem Sound.dec16 {s : State} (h : Sound s) (l : Loc16) : Sound (s.dec16 l) :=
  (h.put16 _ _).setFlags _
theorem Sound.neg8 {s : State} (h : Sound s) (l : Loc8) : Sound (s.neg8 l) :=
  (h.put8 _ _).setFlags _
theorem Sound.neg16 {s : State} (h : Sound s) (l : Loc16) : Sound (s.neg16 l) :=
  (h.put16 _ _).setFlags _

theorem Sound.shift8 {s : State} (h : Sound s) (k : ShiftOp) (n : Nat) (e : Ea8) :
    Sound (s.shift8 k n e) := by
  unfold State.shift8
  dsimp only
  split
  · exact h
  · exact ((h.put8 _ _).setFlags _).of_same rfl rfl rfl rfl rfl

theorem Sound.shift16 {s : State} (h : Sound s) (k : ShiftOp) (n : Nat) (e : Ea16) :
    Sound (s.shift16 k n e) := by
  unfold State.shift16
  dsimp only
  split
  · exact h
  · exact ((h.put16 _ _).setFlags _).of_same rfl rfl rfl rfl rfl

/-! ## Interrupts and ports -/

theorem Sound.interrupt {s : State} (h : Sound s) (n : Byte) (ret : Word) :
    Sound (s.interrupt n ret) :=
  ((((((h.push _).setFlag _ _).setFlag _ _).push _).push _).setIp _).setSreg _ _

theorem Sound.interruptReturn {s : State} (h : Sound s) : Sound s.interruptReturn :=
  (((h.pop.pop.pop).setIp _).setSreg _ _).setFlags _

theorem Sound.withPit {s : State} (h : Sound s) {p : Pit} (hp : PitOk p) :
    Sound { s with pit := p } := ⟨h.1, h.2.1, hp⟩

theorem Sound.withPic {s : State} (h : Sound s) {p : Pic} (hp : PicOk p) :
    Sound { s with pic := p } := ⟨h.1, hp, h.2.2⟩

theorem Sound.ioByteRead {s : State} (h : Sound s) (p : Word) : Sound (s.ioByteRead p).2 := by
  obtain ⟨q, hq, hok⟩ := s.ioByteRead_cases p
  rw [hq]
  exact h.withPit (hok h.2.2)

theorem Sound.ioWordRead {s : State} (h : Sound s) (p : Word) : Sound (s.ioWordRead p).2 := by
  obtain ⟨q, hq, hok⟩ := s.ioWordRead_cases p
  rw [hq]
  exact h.withPit (hok h.2.2)

theorem Sound.ioByteWrite {s : State} (h : Sound s) (p : Word) (v : Byte) :
    Sound (s.ioByteWrite p v) := by
  obtain ⟨q, r, hq, h1, h2⟩ := s.ioByteWrite_cases p v
  rw [hq]
  exact ⟨h.1, h2 h.2.1, h1 h.2.2⟩

theorem Sound.ioWordWrite {s : State} (h : Sound s) (p : Word) (v : Word) :
    Sound (s.ioWordWrite p v) := by
  obtain ⟨q, r, hq, h1, h2⟩ := s.ioWordWrite_cases p v
  rw [hq]
  exact ⟨h.1, h2 h.2.1, h1 h.2.2⟩

end Sys2Proof.Machine
end

