-- ==== Sys2Proof/Laws/PerInstr.lean ====
section
/-! SUPPORT. Statements made per instruction. LengthBounds: an instruction without its prefixes has
one to six bytes (30_encoding.md R172). -/

namespace Sys2Proof.Laws.LengthBounds

/-- The bound of 30_encoding.md R172: opcode, ModRM, at most two displacement bytes and two
immediate bytes. -/
def Statement (i : Instr) : Prop := 1 ≤ i.len ∧ i.len ≤ maxInstrBytes

theorem memOp_bytes_length (m : MemOp) (reg : BitVec 3) :
    1 ≤ (m.bytes reg).length ∧ (m.bytes reg).length ≤ 3 := by
  cases m with
  | direct off => simp [MemOp.bytes, wordBytes]
  | based b d => cases d <;> simp [MemOp.bytes, wordBytes]

theorem ea8_bytes_length (e : Ea8) (reg : BitVec 3) :
    1 ≤ (e.bytes reg).length ∧ (e.bytes reg).length ≤ 3 := by
  cases e with
  | reg r => simp [Ea8.bytes]
  | mem m => exact memOp_bytes_length m reg

theorem ea16_bytes_length (e : Ea16) (reg : BitVec 3) :
    1 ≤ (e.bytes reg).length ∧ (e.bytes reg).length ≤ 3 := by
  cases e with
  | reg r => simp [Ea16.bytes]
  | mem m => exact memOp_bytes_length m reg

/-- An opcode, an Eb operand and at most two more bytes. -/
theorem of_ea8 {i : Instr} (op : Byte) (e : Ea8) (reg : BitVec 3) (tail : List Byte)
    (h : encode i = op :: (e.bytes reg ++ tail)) (ht : Nat.ble tail.length 2 = true) :
    Statement i := by
  have := ea8_bytes_length e reg
  have := Nat.le_of_ble_eq_true ht
  simp only [Statement, Instr.len, maxInstrBytes, h, List.length_cons, List.length_append]
  omega

/-- An opcode and an Eb operand. -/
theorem of_ea8_alone {i : Instr} (op : Byte) (e : Ea8) (reg : BitVec 3)
    (h : encode i = op :: e.bytes reg) : Statement i :=
  of_ea8 op e reg [] (h.trans (congrArg (op :: ·) (List.append_nil _).symm)) rfl

/-- An opcode, an Ew operand and at most two more bytes. -/
theorem of_ea16 {i : Instr} (op : Byte) (e : Ea16) (reg : BitVec 3) (tail : List Byte)
    (h : encode i = op :: (e.bytes reg ++ tail)) (ht : Nat.ble tail.length 2 = true) :
    Statement i := by
  have := ea16_bytes_length e reg
  have := Nat.le_of_ble_eq_true ht
  simp only [Statement, Instr.len, maxInstrBytes, h, List.length_cons, List.length_append]
  omega

/-- An opcode and an Ew operand. -/
theorem of_ea16_alone {i : Instr} (op : Byte) (e : Ea16) (reg : BitVec 3)
    (h : encode i = op :: e.bytes reg) : Statement i :=
  of_ea16 op e reg [] (h.trans (congrArg (op :: ·) (List.append_nil _).symm)) rfl

/-- A row without ModRM: its bytes are counted. -/
theorem of_count {i : Instr} (h : (Nat.ble 1 i.len && Nat.ble i.len 6) = true) : Statement i :=
  ⟨Nat.le_of_ble_eq_true (Bool.and_eq_true_iff.mp h).1,
    Nat.le_of_ble_eq_true (Bool.and_eq_true_iff.mp h).2⟩

theorem addEbGb (e : Ea8) (g : Reg8) : Statement (.addEbGb e g) :=
  of_ea8_alone 0x00 e g.code rfl

theorem addEwGw (e : Ea16) (g : Reg16) : Statement (.addEwGw e g) :=
  of_ea16_alone 0x01 e g.code rfl

theorem addGbEb (g : Reg8) (e : Ea8) : Statement (.addGbEb g e) :=
  of_ea8_alone 0x02 e g.code rfl

theorem addGwEw (g : Reg16) (e : Ea16) : Statement (.addGwEw g e) :=
  of_ea16_alone 0x03 e g.code rfl

theorem addAlIb (imm : Byte) : Statement (.addAlIb imm) :=
  of_count rfl

theorem addAxIw (imm : Word) : Statement (.addAxIw imm) :=
  of_count rfl

theorem orEbGb (e : Ea8) (g : Reg8) : Statement (.orEbGb e g) :=
  of_ea8_alone 0x08 e g.code rfl

theorem orEwGw (e : Ea16) (g : Reg16) : Statement (.orEwGw e g) :=
  of_ea16_alone 0x09 e g.code rfl

theorem orGbEb (g : Reg8) (e : Ea8) : Statement (.orGbEb g e) :=
  of_ea8_alone 0x0A e g.code rfl

theorem orGwEw (g : Reg16) (e : Ea16) : Statement (.orGwEw g e) :=
  of_ea16_alone 0x0B e g.code rfl

theorem orAlIb (imm : Byte) : Statement (.orAlIb imm) :=
  of_count rfl

theorem orAxIw (imm : Word) : Statement (.orAxIw imm) :=
  of_count rfl

theorem adcEbGb (e : Ea8) (g : Reg8) : Statement (.adcEbGb e g) :=
  of_ea8_alone 0x10 e g.code rfl

theorem adcEwGw (e : Ea16) (g : Reg16) : Statement (.adcEwGw e g) :=
  of_ea16_alone 0x11 e g.code rfl

theorem adcGbEb (g : Reg8) (e : Ea8) : Statement (.adcGbEb g e) :=
  of_ea8_alone 0x12 e g.code rfl

theorem adcGwEw (g : Reg16) (e : Ea16) : Statement (.adcGwEw g e) :=
  of_ea16_alone 0x13 e g.code rfl

theorem adcAlIb (imm : Byte) : Statement (.adcAlIb imm) :=
  of_count rfl

theorem adcAxIw (imm : Word) : Statement (.adcAxIw imm) :=
  of_count rfl

theorem sbbEbGb (e : Ea8) (g : Reg8) : Statement (.sbbEbGb e g) :=
  of_ea8_alone 0x18 e g.code rfl

theorem sbbEwGw (e : Ea16) (g : Reg16) : Statement (.sbbEwGw e g) :=
  of_ea16_alone 0x19 e g.code rfl

theorem sbbGbEb (g : Reg8) (e : Ea8) : Statement (.sbbGbEb g e) :=
  of_ea8_alone 0x1A e g.code rfl

theorem sbbGwEw (g : Reg16) (e : Ea16) : Statement (.sbbGwEw g e) :=
  of_ea16_alone 0x1B e g.code rfl

theorem sbbAlIb (imm : Byte) : Statement (.sbbAlIb imm) :=
  of_count rfl

theorem sbbAxIw (imm : Word) : Statement (.sbbAxIw imm) :=
  of_count rfl

theorem andEbGb (e : Ea8) (g : Reg8) : Statement (.andEbGb e g) :=
  of_ea8_alone 0x20 e g.code rfl

theorem andEwGw (e : Ea16) (g : Reg16) : Statement (.andEwGw e g) :=
  of_ea16_alone 0x21 e g.code rfl

theorem andGbEb (g : Reg8) (e : Ea8) : Statement (.andGbEb g e) :=
  of_ea8_alone 0x22 e g.code rfl

theorem andGwEw (g : Reg16) (e : Ea16) : Statement (.andGwEw g e) :=
  of_ea16_alone 0x23 e g.code rfl

theorem andAlIb (imm : Byte) : Statement (.andAlIb imm) :=
  of_count rfl

theorem andAxIw (imm : Word) : Statement (.andAxIw imm) :=
  of_count rfl

theorem subEbGb (e : Ea8) (g : Reg8) : Statement (.subEbGb e g) :=
  of_ea8_alone 0x28 e g.code rfl

theorem subEwGw (e : Ea16) (g : Reg16) : Statement (.subEwGw e g) :=
  of_ea16_alone 0x29 e g.code rfl

theorem subGbEb (g : Reg8) (e : Ea8) : Statement (.subGbEb g e) :=
  of_ea8_alone 0x2A e g.code rfl

theorem subGwEw (g : Reg16) (e : Ea16) : Statement (.subGwEw g e) :=
  of_ea16_alone 0x2B e g.code rfl

theorem subAlIb (imm : Byte) : Statement (.subAlIb imm) :=
  of_count rfl

theorem subAxIw (imm : Word) : Statement (.subAxIw imm) :=
  of_count rfl

theorem xorEbGb (e : Ea8) (g : Reg8) : Statement (.xorEbGb e g) :=
  of_ea8_alone 0x30 e g.code rfl

theorem xorEwGw (e : Ea16) (g : Reg16) : Statement (.xorEwGw e g) :=
  of_ea16_alone 0x31 e g.code rfl

theorem xorGbEb (g : Reg8) (e : Ea8) : Statement (.xorGbEb g e) :=
  of_ea8_alone 0x32 e g.code rfl

theorem xorGwEw (g : Reg16) (e : Ea16) : Statement (.xorGwEw g e) :=
  of_ea16_alone 0x33 e g.code rfl

theorem xorAlIb (imm : Byte) : Statement (.xorAlIb imm) :=
  of_count rfl

theorem xorAxIw (imm : Word) : Statement (.xorAxIw imm) :=
  of_count rfl

theorem cmpEbGb (e : Ea8) (g : Reg8) : Statement (.cmpEbGb e g) :=
  of_ea8_alone 0x38 e g.code rfl

theorem cmpEwGw (e : Ea16) (g : Reg16) : Statement (.cmpEwGw e g) :=
  of_ea16_alone 0x39 e g.code rfl

theorem cmpGbEb (g : Reg8) (e : Ea8) : Statement (.cmpGbEb g e) :=
  of_ea8_alone 0x3A e g.code rfl

theorem cmpGwEw (g : Reg16) (e : Ea16) : Statement (.cmpGwEw g e) :=
  of_ea16_alone 0x3B e g.code rfl

theorem cmpAlIb (imm : Byte) : Statement (.cmpAlIb imm) :=
  of_count rfl

theorem cmpAxIw (imm : Word) : Statement (.cmpAxIw imm) :=
  of_count rfl

theorem addEbIb (e : Ea8) (imm : Byte) : Statement (.addEbIb e imm) :=
  of_ea8 0x80 e 0 ([imm]) rfl rfl

theorem addEwIw (e : Ea16) (imm : Word) : Statement (.addEwIw e imm) :=
  of_ea16 0x81 e 0 (wordBytes imm) rfl rfl

theorem addEwIbs (e : Ea16) (imm : Byte) : Statement (.addEwIbs e imm) :=
  of_ea16 0x83 e 0 ([imm]) rfl rfl

theorem orEbIb (e : Ea8) (imm : Byte) : Statement (.orEbIb e imm) :=
  of_ea8 0x80 e 1 ([imm]) rfl rfl

theorem orEwIw (e : Ea16) (imm : Word) : Statement (.orEwIw e imm) :=
  of_ea16 0x81 e 1 (wordBytes imm) rfl rfl

theorem orEwIbs (e : Ea16) (imm : Byte) : Statement (.orEwIbs e imm) :=
  of_ea16 0x83 e 1 ([imm]) rfl rfl

theorem adcEbIb (e : Ea8) (imm : Byte) : Statement (.adcEbIb e imm) :=
  of_ea8 0x80 e 2 ([imm]) rfl rfl

theorem adcEwIw (e : Ea16) (imm : Word) : Statement (.adcEwIw e imm) :=
  of_ea16 0x81 e 2 (wordBytes imm) rfl rfl

theorem adcEwIbs (e : Ea16) (imm : Byte) : Statement (.adcEwIbs e imm) :=
  of_ea16 0x83 e 2 ([imm]) rfl rfl

theorem sbbEbIb (e : Ea8) (imm : Byte) : Statement (.sbbEbIb e imm) :=
  of_ea8 0x80 e 3 ([imm]) rfl rfl

theorem sbbEwIw (e : Ea16) (imm : Word) : Statement (.sbbEwIw e imm) :=
  of_ea16 0x81 e 3 (wordBytes imm) rfl rfl

theorem sbbEwIbs (e : Ea16) (imm : Byte) : Statement (.sbbEwIbs e imm) :=
  of_ea16 0x83 e 3 ([imm]) rfl rfl

theorem andEbIb (e : Ea8) (imm : Byte) : Statement (.andEbIb e imm) :=
  of_ea8 0x80 e 4 ([imm]) rfl rfl

theorem andEwIw (e : Ea16) (imm : Word) : Statement (.andEwIw e imm) :=
  of_ea16 0x81 e 4 (wordBytes imm) rfl rfl

theorem andEwIbs (e : Ea16) (imm : Byte) : Statement (.andEwIbs e imm) :=
  of_ea16 0x83 e 4 ([imm]) rfl rfl

theorem subEbIb (e : Ea8) (imm : Byte) : Statement (.subEbIb e imm) :=
  of_ea8 0x80 e 5 ([imm]) rfl rfl

theorem subEwIw (e : Ea16) (imm : Word) : Statement (.subEwIw e imm) :=
  of_ea16 0x81 e 5 (wordBytes imm) rfl rfl

theorem subEwIbs (e : Ea16) (imm : Byte) : Statement (.subEwIbs e imm) :=
  of_ea16 0x83 e 5 ([imm]) rfl rfl

theorem xorEbIb (e : Ea8) (imm : Byte) : Statement (.xorEbIb e imm) :=
  of_ea8 0x80 e 6 ([imm]) rfl rfl

theorem xorEwIw (e : Ea16) (imm : Word) : Statement (.xorEwIw e imm) :=
  of_ea16 0x81 e 6 (wordBytes imm) rfl rfl

theorem xorEwIbs (e : Ea16) (imm : Byte) : Statement (.xorEwIbs e imm) :=
  of_ea16 0x83 e 6 ([imm]) rfl rfl

theorem cmpEbIb (e : Ea8) (imm : Byte) : Statement (.cmpEbIb e imm) :=
  of_ea8 0x80 e 7 ([imm]) rfl rfl

theorem cmpEwIw (e : Ea16) (imm : Word) : Statement (.cmpEwIw e imm) :=
  of_ea16 0x81 e 7 (wordBytes imm) rfl rfl

theorem cmpEwIbs (e : Ea16) (imm : Byte) : Statement (.cmpEwIbs e imm) :=
  of_ea16 0x83 e 7 ([imm]) rfl rfl

theorem pushEs : Statement .pushEs :=
  of_count rfl

theorem popEs : Statement .popEs :=
  of_count rfl

theorem pushCs : Statement .pushCs :=
  of_count rfl

theorem pushSs : Statement .pushSs :=
  of_count rfl

theorem popSs : Statement .popSs :=
  of_count rfl

theorem pushDs : Statement .pushDs :=
  of_count rfl

theorem popDs : Statement .popDs :=
  of_count rfl

theorem esPrefix : Statement .esPrefix :=
  of_count rfl

theorem csPrefix : Statement .csPrefix :=
  of_count rfl

theorem ssPrefix : Statement .ssPrefix :=
  of_count rfl

theorem dsPrefix : Statement .dsPrefix :=
  of_count rfl

theorem incAx : Statement .incAx :=
  of_count rfl

theorem incCx : Statement .incCx :=
  of_count rfl

theorem incDx : Statement .incDx :=
  of_count rfl

theorem incBx : Statement .incBx :=
  of_count rfl

theorem incSp : Statement .incSp :=
  of_count rfl

theorem incBp : Statement .incBp :=
  of_count rfl

theorem incSi : Statement .incSi :=
  of_count rfl

theorem incDi : Statement .incDi :=
  of_count rfl

theorem decAx : Statement .decAx :=
  of_count rfl

theorem decCx : Statement .decCx :=
  of_count rfl

theorem decDx : Statement .decDx :=
  of_count rfl

theorem decBx : Statement .decBx :=
  of_count rfl

theorem decSp : Statement .decSp :=
  of_count rfl

theorem decBp : Statement .decBp :=
  of_count rfl

theorem decSi : Statement .decSi :=
  of_count rfl

theorem decDi : Statement .decDi :=
  of_count rfl

theorem pushAx : Statement .pushAx :=
  of_count rfl

theorem pushCx : Statement .pushCx :=
  of_count rfl

theorem pushDx : Statement .pushDx :=
  of_count rfl

theorem pushBx : Statement .pushBx :=
  of_count rfl

theorem pushSp : Statement .pushSp :=
  of_count rfl

theorem pushBp : Statement .pushBp :=
  of_count rfl

theorem pushSi : Statement .pushSi :=
  of_count rfl

theorem pushDi : Statement .pushDi :=
  of_count rfl

theorem popAx : Statement .popAx :=
  of_count rfl

theorem popCx : Statement .popCx :=
  of_count rfl

theorem popDx : Statement .popDx :=
  of_count rfl

theorem popBx : Statement .popBx :=
  of_count rfl

theorem popSp : Statement .popSp :=
  of_count rfl

theorem popBp : Statement .popBp :=
  of_count rfl

theorem popSi : Statement .popSi :=
  of_count rfl

theorem popDi : Statement .popDi :=
  of_count rfl

theorem joJb (d : Byte) : Statement (.joJb d) :=
  of_count rfl

theorem jnoJb (d : Byte) : Statement (.jnoJb d) :=
  of_count rfl

theorem jbJb (d : Byte) : Statement (.jbJb d) :=
  of_count rfl

theorem jnbJb (d : Byte) : Statement (.jnbJb d) :=
  of_count rfl

theorem jzJb (d : Byte) : Statement (.jzJb d) :=
  of_count rfl

theorem jnzJb (d : Byte) : Statement (.jnzJb d) :=
  of_count rfl

theorem jbeJb (d : Byte) : Statement (.jbeJb d) :=
  of_count rfl

theorem jaJb (d : Byte) : Statement (.jaJb d) :=
  of_count rfl

theorem jsJb (d : Byte) : Statement (.jsJb d) :=
  of_count rfl

theorem jnsJb (d : Byte) : Statement (.jnsJb d) :=
  of_count rfl

theorem jpJb (d : Byte) : Statement (.jpJb d) :=
  of_count rfl

theorem jnpJb (d : Byte) : Statement (.jnpJb d) :=
  of_count rfl

theorem jlJb (d : Byte) : Statement (.jlJb d) :=
  of_count rfl

theorem jgeJb (d : Byte) : Statement (.jgeJb d) :=
  of_count rfl

theorem jleJb (d : Byte) : Statement (.jleJb d) :=
  of_count rfl

theorem jgJb (d : Byte) : Statement (.jgJb d) :=
  of_count rfl

theorem testEbGb (e : Ea8) (g : Reg8) : Statement (.testEbGb e g) :=
  of_ea8_alone 0x84 e g.code rfl

theorem testEwGw (e : Ea16) (g : Reg16) : Statement (.testEwGw e g) :=
  of_ea16_alone 0x85 e g.code rfl

theorem movEbGb (e : Ea8) (g : Reg8) : Statement (.movEbGb e g) :=
  of_ea8_alone 0x88 e g.code rfl

theorem movEwGw (e : Ea16) (g : Reg16) : Statement (.movEwGw e g) :=
  of_ea16_alone 0x89 e g.code rfl

theorem movGbEb (g : Reg8) (e : Ea8) : Statement (.movGbEb g e) :=
  of_ea8_alone 0x8A e g.code rfl

theorem movGwEw (g : Reg16) (e : Ea16) : Statement (.movGwEw g e) :=
  of_ea16_alone 0x8B e g.code rfl

theorem movEwSw (e : Ea16) (sr : SReg) : Statement (.movEwSw e sr) :=
  of_ea16_alone 0x8C e sr.code3 rfl

theorem movSwEw (sr : SReg) (e : Ea16) : Statement (.movSwEw sr e) :=
  of_ea16_alone 0x8E e sr.code3 rfl

theorem popEw (e : Ea16) : Statement (.popEw e) :=
  of_ea16_alone 0x8F e 0 rfl

theorem nop : Statement .nop :=
  of_count rfl

theorem callAp (off seg : Word) : Statement (.callAp off seg) :=
  of_count rfl

theorem pushf : Statement .pushf :=
  of_count rfl

theorem popf : Statement .popf :=
  of_count rfl

theorem movAlOb (off : Word) : Statement (.movAlOb off) :=
  of_count rfl

theorem movAxOw (off : Word) : Statement (.movAxOw off) :=
  of_count rfl

theorem movObAl (off : Word) : Statement (.movObAl off) :=
  of_count rfl

theorem movOwAx (off : Word) : Statement (.movOwAx off) :=
  of_count rfl

theorem testAlIb (imm : Byte) : Statement (.testAlIb imm) :=
  of_count rfl

theorem testAxIw (imm : Word) : Statement (.testAxIw imm) :=
  of_count rfl

theorem movAlIb (imm : Byte) : Statement (.movAlIb imm) :=
  of_count rfl

theorem movClIb (imm : Byte) : Statement (.movClIb imm) :=
  of_count rfl

theorem movDlIb (imm : Byte) : Statement (.movDlIb imm) :=
  of_count rfl

theorem movBlIb (imm : Byte) : Statement (.movBlIb imm) :=
  of_count rfl

theorem movAhIb (imm : Byte) : Statement (.movAhIb imm) :=
  of_count rfl

theorem movChIb (imm : Byte) : Statement (.movChIb imm) :=
  of_count rfl

theorem movDhIb (imm : Byte) : Statement (.movDhIb imm) :=
  of_count rfl

theorem movBhIb (imm : Byte) : Statement (.movBhIb imm) :=
  of_count rfl

theorem movAxIw (imm : Word) : Statement (.movAxIw imm) :=
  of_count rfl

theorem movCxIw (imm : Word) : Statement (.movCxIw imm) :=
  of_count rfl

theorem movDxIw (imm : Word) : Statement (.movDxIw imm) :=
  of_count rfl

theorem movBxIw (imm : Word) : Statement (.movBxIw imm) :=
  of_count rfl

theorem movSpIw (imm : Word) : Statement (.movSpIw imm) :=
  of_count rfl

theorem movBpIw (imm : Word) : Statement (.movBpIw imm) :=
  of_count rfl

theorem movSiIw (imm : Word) : Statement (.movSiIw imm) :=
  of_count rfl

theorem movDiIw (imm : Word) : Statement (.movDiIw imm) :=
  of_count rfl

theorem retIw (imm : Word) : Statement (.retIw imm) :=
  of_count rfl

theorem ret : Statement .ret :=
  of_count rfl

theorem movEbIb (e : Ea8) (imm : Byte) : Statement (.movEbIb e imm) :=
  of_ea8 0xC6 e 0 ([imm]) rfl rfl

theorem movEwIw (e : Ea16) (imm : Word) : Statement (.movEwIw e imm) :=
  of_ea16 0xC7 e 0 (wordBytes imm) rfl rfl

theorem retfIw (imm : Word) : Statement (.retfIw imm) :=
  of_count rfl

theorem retf : Statement .retf :=
  of_count rfl

theorem int3 : Statement .int3 :=
  of_count rfl

theorem intIb (n : Byte) : Statement (.intIb n) :=
  of_count rfl

theorem into : Statement .into :=
  of_count rfl

theorem iret : Statement .iret :=
  of_count rfl

theorem rolEb1 (e : Ea8) : Statement (.rolEb1 e) :=
  of_ea8_alone 0xD0 e 0 rfl

theorem rolEw1 (e : Ea16) : Statement (.rolEw1 e) :=
  of_ea16_alone 0xD1 e 0 rfl

theorem rolEbCl (e : Ea8) : Statement (.rolEbCl e) :=
  of_ea8_alone 0xD2 e 0 rfl

theorem rolEwCl (e : Ea16) : Statement (.rolEwCl e) :=
  of_ea16_alone 0xD3 e 0 rfl

theorem rorEb1 (e : Ea8) : Statement (.rorEb1 e) :=
  of_ea8_alone 0xD0 e 1 rfl

theorem rorEw1 (e : Ea16) : Statement (.rorEw1 e) :=
  of_ea16_alone 0xD1 e 1 rfl

theorem rorEbCl (e : Ea8) : Statement (.rorEbCl e) :=
  of_ea8_alone 0xD2 e 1 rfl

theorem rorEwCl (e : Ea16) : Statement (.rorEwCl e) :=
  of_ea16_alone 0xD3 e 1 rfl

theorem rclEb1 (e : Ea8) : Statement (.rclEb1 e) :=
  of_ea8_alone 0xD0 e 2 rfl

theorem rclEw1 (e : Ea16) : Statement (.rclEw1 e) :=
  of_ea16_alone 0xD1 e 2 rfl

theorem rclEbCl (e : Ea8) : Statement (.rclEbCl e) :=
  of_ea8_alone 0xD2 e 2 rfl

theorem rclEwCl (e : Ea16) : Statement (.rclEwCl e) :=
  of_ea16_alone 0xD3 e 2 rfl

theorem rcrEb1 (e : Ea8) : Statement (.rcrEb1 e) :=
  of_ea8_alone 0xD0 e 3 rfl

theorem rcrEw1 (e : Ea16) : Statement (.rcrEw1 e) :=
  of_ea16_alone 0xD1 e 3 rfl

theorem rcrEbCl (e : Ea8) : Statement (.rcrEbCl e) :=
  of_ea8_alone 0xD2 e 3 rfl

theorem rcrEwCl (e : Ea16) : Statement (.rcrEwCl e) :=
  of_ea16_alone 0xD3 e 3 rfl

theorem shlEb1 (e : Ea8) : Statement (.shlEb1 e) :=
  of_ea8_alone 0xD0 e 4 rfl

theorem shlEw1 (e : Ea16) : Statement (.shlEw1 e) :=
  of_ea16_alone 0xD1 e 4 rfl

theorem shlEbCl (e : Ea8) : Statement (.shlEbCl e) :=
  of_ea8_alone 0xD2 e 4 rfl

theorem shlEwCl (e : Ea16) : Statement (.shlEwCl e) :=
  of_ea16_alone 0xD3 e 4 rfl

theorem shrEb1 (e : Ea8) : Statement (.shrEb1 e) :=
  of_ea8_alone 0xD0 e 5 rfl

theorem shrEw1 (e : Ea16) : Statement (.shrEw1 e) :=
  of_ea16_alone 0xD1 e 5 rfl

theorem shrEbCl (e : Ea8) : Statement (.shrEbCl e) :=
  of_ea8_alone 0xD2 e 5 rfl

theorem shrEwCl (e : Ea16) : Statement (.shrEwCl e) :=
  of_ea16_alone 0xD3 e 5 rfl

theorem sarEb1 (e : Ea8) : Statement (.sarEb1 e) :=
  of_ea8_alone 0xD0 e 7 rfl

theorem sarEw1 (e : Ea16) : Statement (.sarEw1 e) :=
  of_ea16_alone 0xD1 e 7 rfl

theorem sarEbCl (e : Ea8) : Statement (.sarEbCl e) :=
  of_ea8_alone 0xD2 e 7 rfl

theorem sarEwCl (e : Ea16) : Statement (.sarEwCl e) :=
  of_ea16_alone 0xD3 e 7 rfl

theorem loopnzJb (d : Byte) : Statement (.loopnzJb d) :=
  of_count rfl

theorem loopzJb (d : Byte) : Statement (.loopzJb d) :=
  of_count rfl

theorem loopJb (d : Byte) : Statement (.loopJb d) :=
  of_count rfl

theorem jcxzJb (d : Byte) : Statement (.jcxzJb d) :=
  of_count rfl

theorem inAlIb (port : Byte) : Statement (.inAlIb port) :=
  of_count rfl

theorem inAxIb (port : Byte) : Statement (.inAxIb port) :=
  of_count rfl

theorem outIbAl (port : Byte) : Statement (.outIbAl port) :=
  of_count rfl

theorem outIbAx (port : Byte) : Statement (.outIbAx port) :=
  of_count rfl

theorem callJw (d : Word) : Statement (.callJw d) :=
  of_count rfl

theorem jmpJw (d : Word) : Statement (.jmpJw d) :=
  of_count rfl

theorem jmpAp (off seg : Word) : Statement (.jmpAp off seg) :=
  of_count rfl

theorem jmpJb (d : Byte) : Statement (.jmpJb d) :=
  of_count rfl

theorem inAlDx : Statement .inAlDx :=
  of_count rfl

theorem inAxDx : Statement .inAxDx :=
  of_count rfl

theorem outDxAl : Statement .outDxAl :=
  of_count rfl

theorem outDxAx : Statement .outDxAx :=
  of_count rfl

theorem hlt : Statement .hlt :=
  of_count rfl

theorem cmc : Statement .cmc :=
  of_count rfl

theorem testEbIb (e : Ea8) (imm : Byte) : Statement (.testEbIb e imm) :=
  of_ea8 0xF6 e 0 ([imm]) rfl rfl

theorem notEb (e : Ea8) : Statement (.notEb e) :=
  of_ea8_alone 0xF6 e 2 rfl

theorem negEb (e : Ea8) : Statement (.negEb e) :=
  of_ea8_alone 0xF6 e 3 rfl

theorem testEwIw (e : Ea16) (imm : Word) : Statement (.testEwIw e imm) :=
  of_ea16 0xF7 e 0 (wordBytes imm) rfl rfl

theorem notEw (e : Ea16) : Statement (.notEw e) :=
  of_ea16_alone 0xF7 e 2 rfl

theorem negEw (e : Ea16) : Statement (.negEw e) :=
  of_ea16_alone 0xF7 e 3 rfl

theorem clc : Statement .clc :=
  of_count rfl

theorem stc : Statement .stc :=
  of_count rfl

theorem cli : Statement .cli :=
  of_count rfl

theorem sti : Statement .sti :=
  of_count rfl

theorem cld : Statement .cld :=
  of_count rfl

theorem std : Statement .std :=
  of_count rfl

theorem incEb (e : Ea8) : Statement (.incEb e) :=
  of_ea8_alone 0xFE e 0 rfl

theorem decEb (e : Ea8) : Statement (.decEb e) :=
  of_ea8_alone 0xFE e 1 rfl

theorem incEw (e : Ea16) : Statement (.incEw e) :=
  of_ea16_alone 0xFF e 0 rfl

theorem decEw (e : Ea16) : Statement (.decEw e) :=
  of_ea16_alone 0xFF e 1 rfl

theorem callEw (e : Ea16) : Statement (.callEw e) :=
  of_ea16_alone 0xFF e 2 rfl

theorem jmpEw (e : Ea16) : Statement (.jmpEw e) :=
  of_ea16_alone 0xFF e 4 rfl

theorem pushEw (e : Ea16) : Statement (.pushEw e) :=
  of_ea16_alone 0xFF e 6 rfl

end Sys2Proof.Laws.LengthBounds
end

