-- ==== Sys2Proof/Tests/Slice0.lean ====
section
/-! SUPPORT. Tests. The expected results are the spec's: the words from the encodings of opcode_table.json
and 30_encoding.md, the single steps from 95_test_vectors.md (a docstring names the vector). The last
part shows, for each statement with hypotheses, values that meet them. -/

namespace Sys2Proof.Tests

open Sys2Proof Sys2Proof.Machine

/-! ## Helpers -/

/-- The bytes decode to the instruction and nothing is left. -/
def readsAs (p : List Byte × Instr) : Bool :=
  match decode p.1 with
  | .ok (i, []) => decide (i = p.2)
  | .ok (_, _ :: _) | .error _ => false

/-- The bytes are refused with the fault. -/
def faultsWith (p : List Byte × EmulationFault) : Bool :=
  match decode p.1 with
  | .error (.fault f) => decide (f = p.2)
  | .ok _ | .error .truncated => false

/-- The common start state of 95_test_vectors.md, with SP away from the vector table. -/
def start : State :=
  { State.reset with
    regs := { Regs.reset Config.default with cs := 0x0000#16, ip := 0x0100#16, sp := 0x8000#16 } }

/-- With other registers. -/
def withRegs (s : State) (f : Regs → Regs) : State := { s with regs := f s.regs }

/-- With bytes at a linear address. -/
def withBytes (s : State) (a : Nat) (bytes : List Byte) : State :=
  { s with mem := s.mem.load a bytes }

/-- With the instruction's bytes at CS:IP. -/
def code (s : State) (bytes : List Byte) : State := s.place s.regs.cs s.regs.ip bytes

/-- One step answers a next state that passes the check. -/
def stepGives (s : State) (p : State → Bool) : Bool :=
  match step s with
  | .next t => p t
  | .fault _ | .refused _ => false

/-! ## WellFormed refuses what has no encoding -/

/-- R150: BP alone has no encoding, as an Eb operand. -/
theorem test_illformed_ea8 : (Instr.movEbGb (.mem (.based .bp .none)) .al).wf = false := by decide

/-- R150: BP alone has no encoding, as an Ew operand. -/
theorem test_illformed_ea16 : (Instr.pushEw (.mem (.based .bp .none))).wf = false := by decide

/-- R162: MOV does not load CS. -/
theorem test_illformed_mov_cs : (Instr.movSwEw .cs (.reg .ax)).wf = false := by decide

/-- The operands beside them are well-formed. -/
theorem test_wellformed :
    (Instr.movEbGb (.mem (.based .bp (.d8 0))) .al).wf = true ∧
      (Instr.pushEw (.mem (.based .bx .none))).wf = true ∧
      (Instr.movSwEw .ss (.reg .ax)).wf = true := by decide

/-! ## Decoding: for every constructor a word written out from the table -/

theorem test_words_0x :
    List.all (α := List Byte × Instr) [
      ([0x00, 0x5A, 0xFE], .addEbGb (.mem (.based .bpsi (.d8 0xFE))) .bl),
      ([0x01, 0xB6, 0x34, 0x12], .addEwGw (.mem (.based .bp (.d16 0x1234))) .si),
      ([0x02, 0xC9], .addGbEb .cl (.reg .cl)),
      ([0x03, 0x20], .addGwEw .sp (.mem (.based .bxsi .none))),
      ([0x04, 0x85], .addAlIb 0x85),
      ([0x05, 0xCD, 0xAB], .addAxIw 0xABCD),
      ([0x08, 0x7D, 0x7F], .orEbGb (.mem (.based .di (.d8 0x7F))) .bh),
      ([0x09, 0xD2], .orEwGw (.reg .dx) .dx),
      ([0x0A, 0x2B], .orGbEb .ch (.mem (.based .bpdi .none))),
      ([0x0B, 0x44, 0x00], .orGwEw .ax (.mem (.based .si (.d8 0)))),
      ([0x0C, 0x85], .orAlIb 0x85),
      ([0x0D, 0xCD, 0xAB], .orAxIw 0xABCD),
      ([0x06], .pushEs),
      ([0x07], .popEs),
      ([0x0E], .pushCs)] readsAs = true := by
  decide

theorem test_words_1x :
    List.all (α := List Byte × Instr) [
      ([0x10, 0xDB], .adcEbGb (.reg .bl) .bl),
      ([0x11, 0x37], .adcEwGw (.mem (.based .bx .none)) .si),
      ([0x12, 0x4A, 0xFE], .adcGbEb .cl (.mem (.based .bpsi (.d8 0xFE)))),
      ([0x13, 0xE4], .adcGwEw .sp (.reg .sp)),
      ([0x14, 0x85], .adcAlIb 0x85),
      ([0x15, 0xCD, 0xAB], .adcAxIw 0xABCD),
      ([0x18, 0x3E, 0x78, 0x56], .sbbEbGb (.mem (.direct 0x5678)) .bh),
      ([0x19, 0x10], .sbbEwGw (.mem (.based .bxsi .none)) .dx),
      ([0x1A, 0xED], .sbbGbEb .ch (.reg .ch)),
      ([0x1B, 0x81, 0x00, 0x80], .sbbGwEw .ax (.mem (.based .bxdi (.d16 0x8000)))),
      ([0x1C, 0x85], .sbbAlIb 0x85),
      ([0x1D, 0xCD, 0xAB], .sbbAxIw 0xABCD),
      ([0x16], .pushSs),
      ([0x17], .popSs),
      ([0x1E], .pushDs),
      ([0x1F], .popDs)] readsAs = true := by
  decide

theorem test_words_2x :
    List.all (α := List Byte × Instr) [
      ([0x20, 0x1B], .andEbGb (.mem (.based .bpdi .none)) .bl),
      ([0x21, 0xF6], .andEwGw (.reg .si) .si),
      ([0x22, 0x4E, 0x10], .andGbEb .cl (.mem (.based .bp (.d8 0x10)))),
      ([0x23, 0x27], .andGwEw .sp (.mem (.based .bx .none))),
      ([0x24, 0x85], .andAlIb 0x85),
      ([0x25, 0xCD, 0xAB], .andAxIw 0xABCD),
      ([0x28, 0xFF], .subEbGb (.reg .bh) .bh),
      ([0x29, 0x96, 0x34, 0x12], .subEwGw (.mem (.based .bp (.d16 0x1234))) .dx),
      ([0x2A, 0x2E, 0x78, 0x56], .subGbEb .ch (.mem (.direct 0x5678))),
      ([0x2B, 0xC0], .subGwEw .ax (.reg .ax)),
      ([0x2C, 0x85], .subAlIb 0x85),
      ([0x2D, 0xCD, 0xAB], .subAxIw 0xABCD),
      ([0x26], .esPrefix),
      ([0x2E], .csPrefix)] readsAs = true := by
  decide

theorem test_words_3x :
    List.all (α := List Byte × Instr) [
      ([0x30, 0x5D, 0x7F], .xorEbGb (.mem (.based .di (.d8 0x7F))) .bl),
      ([0x31, 0xB1, 0x00, 0x80], .xorEwGw (.mem (.based .bxdi (.d16 0x8000))) .si),
      ([0x32, 0xC9], .xorGbEb .cl (.reg .cl)),
      ([0x33, 0x64, 0x00], .xorGwEw .sp (.mem (.based .si (.d8 0)))),
      ([0x34, 0x85], .xorAlIb 0x85),
      ([0x35, 0xCD, 0xAB], .xorAxIw 0xABCD),
      ([0x38, 0x7E, 0x10], .cmpEbGb (.mem (.based .bp (.d8 0x10))) .bh),
      ([0x39, 0xD2], .cmpEwGw (.reg .dx) .dx),
      ([0x3A, 0x6A, 0xFE], .cmpGbEb .ch (.mem (.based .bpsi (.d8 0xFE)))),
      ([0x3B, 0x86, 0x34, 0x12], .cmpGwEw .ax (.mem (.based .bp (.d16 0x1234)))),
      ([0x3C, 0x85], .cmpAlIb 0x85),
      ([0x3D, 0xCD, 0xAB], .cmpAxIw 0xABCD),
      ([0x36], .ssPrefix),
      ([0x3E], .dsPrefix)] readsAs = true := by
  decide

theorem test_words_4x :
    List.all (α := List Byte × Instr) [
      ([0x40], .incAx),
      ([0x41], .incCx),
      ([0x42], .incDx),
      ([0x43], .incBx),
      ([0x44], .incSp),
      ([0x45], .incBp),
      ([0x46], .incSi),
      ([0x47], .incDi),
      ([0x48], .decAx),
      ([0x49], .decCx),
      ([0x4A], .decDx),
      ([0x4B], .decBx),
      ([0x4C], .decSp),
      ([0x4D], .decBp),
      ([0x4E], .decSi),
      ([0x4F], .decDi)] readsAs = true := by
  decide

theorem test_words_5x :
    List.all (α := List Byte × Instr) [
      ([0x50], .pushAx),
      ([0x51], .pushCx),
      ([0x52], .pushDx),
      ([0x53], .pushBx),
      ([0x54], .pushSp),
      ([0x55], .pushBp),
      ([0x56], .pushSi),
      ([0x57], .pushDi),
      ([0x58], .popAx),
      ([0x59], .popCx),
      ([0x5A], .popDx),
      ([0x5B], .popBx),
      ([0x5C], .popSp),
      ([0x5D], .popBp),
      ([0x5E], .popSi),
      ([0x5F], .popDi)] readsAs = true := by
  decide

theorem test_words_7x :
    List.all (α := List Byte × Instr) [
      ([0x70, 0x85], .joJb 0x85),
      ([0x71, 0x85], .jnoJb 0x85),
      ([0x72, 0x85], .jbJb 0x85),
      ([0x73, 0x85], .jnbJb 0x85),
      ([0x74, 0x85], .jzJb 0x85),
      ([0x75, 0x85], .jnzJb 0x85),
      ([0x76, 0x85], .jbeJb 0x85),
      ([0x77, 0x85], .jaJb 0x85),
      ([0x78, 0x85], .jsJb 0x85),
      ([0x79, 0x85], .jnsJb 0x85),
      ([0x7A, 0x85], .jpJb 0x85),
      ([0x7B, 0x85], .jnpJb 0x85),
      ([0x7C, 0x85], .jlJb 0x85),
      ([0x7D, 0x85], .jgeJb 0x85),
      ([0x7E, 0x85], .jleJb 0x85),
      ([0x7F, 0x85], .jgJb 0x85)] readsAs = true := by
  decide

theorem test_words_8x_a :
    List.all (α := List Byte × Instr) [
      ([0x80, 0xC3, 0x85], .addEbIb (.reg .bl) 0x85),
      ([0x81, 0x00, 0xCD, 0xAB], .addEwIw (.mem (.based .bxsi .none)) 0xABCD),
      ([0x83, 0x45, 0x7F, 0x85], .addEwIbs (.mem (.based .di (.d8 0x7F))) 0x85),
      ([0x80, 0xCC, 0x85], .orEbIb (.reg .ah) 0x85),
      ([0x81, 0x0B, 0xCD, 0xAB], .orEwIw (.mem (.based .bpdi .none)) 0xABCD),
      ([0x83, 0x4C, 0x00, 0x85], .orEwIbs (.mem (.based .si (.d8 0))) 0x85),
      ([0x80, 0xD5, 0x85], .adcEbIb (.reg .ch) 0x85),
      ([0x81, 0x17, 0xCD, 0xAB], .adcEwIw (.mem (.based .bx .none)) 0xABCD),
      ([0x83, 0x52, 0xFE, 0x85], .adcEwIbs (.mem (.based .bpsi (.d8 0xFE))) 0x85),
      ([0x80, 0xDE, 0x85], .sbbEbIb (.reg .dh) 0x85),
      ([0x81, 0x1E, 0x78, 0x56, 0xCD, 0xAB], .sbbEwIw (.mem (.direct 0x5678)) 0xABCD),
      ([0x83, 0x18, 0x85], .sbbEwIbs (.mem (.based .bxsi .none)) 0x85),
      ([0x80, 0xE7, 0x85], .andEbIb (.reg .bh) 0x85),
      ([0x81, 0xA1, 0x00, 0x80, 0xCD, 0xAB], .andEwIw (.mem (.based .bxdi (.d16 0x8000))) 0xABCD),
      ([0x83, 0x23, 0x85], .andEwIbs (.mem (.based .bpdi .none)) 0x85),
      ([0x80, 0xE8, 0x85], .subEbIb (.reg .al) 0x85)] readsAs = true := by
  decide

theorem test_words_8x_b :
    List.all (α := List Byte × Instr) [
      ([0x81, 0x6E, 0x10, 0xCD, 0xAB], .subEwIw (.mem (.based .bp (.d8 0x10))) 0xABCD),
      ([0x83, 0x2F, 0x85], .subEwIbs (.mem (.based .bx .none)) 0x85),
      ([0x80, 0xF1, 0x85], .xorEbIb (.reg .cl) 0x85),
      ([0x81, 0xB6, 0x34, 0x12, 0xCD, 0xAB], .xorEwIw (.mem (.based .bp (.d16 0x1234))) 0xABCD),
      ([0x83, 0x36, 0x78, 0x56, 0x85], .xorEwIbs (.mem (.direct 0x5678)) 0x85),
      ([0x80, 0xFA, 0x85], .cmpEbIb (.reg .dl) 0x85),
      ([0x81, 0x7D, 0x7F, 0xCD, 0xAB], .cmpEwIw (.mem (.based .di (.d8 0x7F))) 0xABCD),
      ([0x83, 0xB9, 0x00, 0x80, 0x85], .cmpEwIbs (.mem (.based .bxdi (.d16 0x8000))) 0x85),
      ([0x84, 0xDB], .testEbGb (.reg .bl) .bl),
      ([0x85, 0x74, 0x00], .testEwGw (.mem (.based .si (.d8 0))) .si),
      ([0x88, 0x4E, 0x10], .movEbGb (.mem (.based .bp (.d8 0x10))) .cl),
      ([0x89, 0xE4], .movEwGw (.reg .sp) .sp),
      ([0x8A, 0x7A, 0xFE], .movGbEb .bh (.mem (.based .bpsi (.d8 0xFE)))),
      ([0x8B, 0x96, 0x34, 0x12], .movGwEw .dx (.mem (.based .bp (.d16 0x1234)))),
      ([0x8C, 0xCD], .movEwSw (.reg .bp) .cs),
      ([0x8E, 0x10], .movSwEw .ss (.mem (.based .bxsi .none)))] readsAs = true := by
  decide

theorem test_words_8x_c :
    List.all (α := List Byte × Instr) [
      ([0x8F, 0x45, 0x7F], .popEw (.mem (.based .di (.d8 0x7F))))] readsAs = true := by
  decide

theorem test_words_9x :
    List.all (α := List Byte × Instr) [
      ([0x90], .nop),
      ([0x9A, 0x34, 0x12, 0x00, 0xF0], .callAp 0x1234 0xf000),
      ([0x9C], .pushf),
      ([0x9D], .popf)] readsAs = true := by
  decide

theorem test_words_Ax :
    List.all (α := List Byte × Instr) [
      ([0xA0, 0x34, 0x12], .movAlOb 0x1234),
      ([0xA1, 0x34, 0x12], .movAxOw 0x1234),
      ([0xA2, 0x34, 0x12], .movObAl 0x1234),
      ([0xA3, 0x34, 0x12], .movOwAx 0x1234),
      ([0xA8, 0x85], .testAlIb 0x85),
      ([0xA9, 0xCD, 0xAB], .testAxIw 0xABCD)] readsAs = true := by
  decide

theorem test_words_Bx :
    List.all (α := List Byte × Instr) [
      ([0xB0, 0x85], .movAlIb 0x85),
      ([0xB1, 0x85], .movClIb 0x85),
      ([0xB2, 0x85], .movDlIb 0x85),
      ([0xB3, 0x85], .movBlIb 0x85),
      ([0xB4, 0x85], .movAhIb 0x85),
      ([0xB5, 0x85], .movChIb 0x85),
      ([0xB6, 0x85], .movDhIb 0x85),
      ([0xB7, 0x85], .movBhIb 0x85),
      ([0xB8, 0xCD, 0xAB], .movAxIw 0xABCD),
      ([0xB9, 0xCD, 0xAB], .movCxIw 0xABCD),
      ([0xBA, 0xCD, 0xAB], .movDxIw 0xABCD),
      ([0xBB, 0xCD, 0xAB], .movBxIw 0xABCD),
      ([0xBC, 0xCD, 0xAB], .movSpIw 0xABCD),
      ([0xBD, 0xCD, 0xAB], .movBpIw 0xABCD),
      ([0xBE, 0xCD, 0xAB], .movSiIw 0xABCD),
      ([0xBF, 0xCD, 0xAB], .movDiIw 0xABCD)] readsAs = true := by
  decide

theorem test_words_Cx :
    List.all (α := List Byte × Instr) [
      ([0xC2, 0xCD, 0xAB], .retIw 0xABCD),
      ([0xC3], .ret),
      ([0xC6, 0xC6, 0x85], .movEbIb (.reg .dh) 0x85),
      ([0xC7, 0x03, 0xCD, 0xAB], .movEwIw (.mem (.based .bpdi .none)) 0xABCD),
      ([0xCA, 0xCD, 0xAB], .retfIw 0xABCD),
      ([0xCB], .retf),
      ([0xCC], .int3),
      ([0xCD, 0x85], .intIb 0x85),
      ([0xCE], .into),
      ([0xCF], .iret)] readsAs = true := by
  decide

theorem test_words_Dx_a :
    List.all (α := List Byte × Instr) [
      ([0xD0, 0x44, 0x00], .rolEb1 (.mem (.based .si (.d8 0)))),
      ([0xD1, 0xC7], .rolEw1 (.reg .di)),
      ([0xD2, 0x07], .rolEbCl (.mem (.based .bx .none))),
      ([0xD3, 0x42, 0xFE], .rolEwCl (.mem (.based .bpsi (.d8 0xFE)))),
      ([0xD0, 0xC8], .rorEb1 (.reg .al)),
      ([0xD1, 0x0E, 0x78, 0x56], .rorEw1 (.mem (.direct 0x5678))),
      ([0xD2, 0x08], .rorEbCl (.mem (.based .bxsi .none))),
      ([0xD3, 0xC9], .rorEwCl (.reg .cx)),
      ([0xD0, 0x91, 0x00, 0x80], .rclEb1 (.mem (.based .bxdi (.d16 0x8000)))),
      ([0xD1, 0x13], .rclEw1 (.mem (.based .bpdi .none))),
      ([0xD2, 0xD2], .rclEbCl (.reg .dl)),
      ([0xD3, 0x56, 0x10], .rclEwCl (.mem (.based .bp (.d8 0x10)))),
      ([0xD0, 0x1F], .rcrEb1 (.mem (.based .bx .none))),
      ([0xD1, 0xDB], .rcrEw1 (.reg .bx)),
      ([0xD2, 0x9E, 0x34, 0x12], .rcrEbCl (.mem (.based .bp (.d16 0x1234)))),
      ([0xD3, 0x1E, 0x78, 0x56], .rcrEwCl (.mem (.direct 0x5678)))] readsAs = true := by
  decide

theorem test_words_Dx_b :
    List.all (α := List Byte × Instr) [
      ([0xD0, 0xE4], .shlEb1 (.reg .ah)),
      ([0xD1, 0x65, 0x7F], .shlEw1 (.mem (.based .di (.d8 0x7F)))),
      ([0xD2, 0xA1, 0x00, 0x80], .shlEbCl (.mem (.based .bxdi (.d16 0x8000)))),
      ([0xD3, 0xE5], .shlEwCl (.reg .bp)),
      ([0xD0, 0x6C, 0x00], .shrEb1 (.mem (.based .si (.d8 0)))),
      ([0xD1, 0x6E, 0x10], .shrEw1 (.mem (.based .bp (.d8 0x10)))),
      ([0xD2, 0xEE], .shrEbCl (.reg .dh)),
      ([0xD3, 0x6A, 0xFE], .shrEwCl (.mem (.based .bpsi (.d8 0xFE)))),
      ([0xD0, 0xBE, 0x34, 0x12], .sarEb1 (.mem (.based .bp (.d16 0x1234)))),
      ([0xD1, 0xFF], .sarEw1 (.reg .di)),
      ([0xD2, 0x38], .sarEbCl (.mem (.based .bxsi .none))),
      ([0xD3, 0x7D, 0x7F], .sarEwCl (.mem (.based .di (.d8 0x7F))))] readsAs = true := by
  decide

theorem test_words_Ex :
    List.all (α := List Byte × Instr) [
      ([0xE0, 0x85], .loopnzJb 0x85),
      ([0xE1, 0x85], .loopzJb 0x85),
      ([0xE2, 0x85], .loopJb 0x85),
      ([0xE3, 0x85], .jcxzJb 0x85),
      ([0xE4, 0x85], .inAlIb 0x85),
      ([0xE5, 0x85], .inAxIb 0x85),
      ([0xE6, 0x85], .outIbAl 0x85),
      ([0xE7, 0x85], .outIbAx 0x85),
      ([0xE8, 0xCD, 0xAB], .callJw 0xABCD),
      ([0xE9, 0xCD, 0xAB], .jmpJw 0xABCD),
      ([0xEA, 0x34, 0x12, 0x00, 0xF0], .jmpAp 0x1234 0xf000),
      ([0xEB, 0x85], .jmpJb 0x85),
      ([0xEC], .inAlDx),
      ([0xED], .inAxDx),
      ([0xEE], .outDxAl),
      ([0xEF], .outDxAx)] readsAs = true := by
  decide

theorem test_words_Fx_a :
    List.all (α := List Byte × Instr) [
      ([0xF4], .hlt),
      ([0xF5], .cmc),
      ([0xF6, 0xC0, 0x85], .testEbIb (.reg .al) 0x85),
      ([0xF6, 0x13], .notEb (.mem (.based .bpdi .none))),
      ([0xF6, 0x5C, 0x00], .negEb (.mem (.based .si (.d8 0)))),
      ([0xF7, 0xC1, 0xCD, 0xAB], .testEwIw (.reg .cx) 0xABCD),
      ([0xF7, 0x17], .notEw (.mem (.based .bx .none))),
      ([0xF7, 0x5A, 0xFE], .negEw (.mem (.based .bpsi (.d8 0xFE)))),
      ([0xF8], .clc),
      ([0xF9], .stc),
      ([0xFA], .cli),
      ([0xFB], .sti),
      ([0xFC], .cld),
      ([0xFD], .std),
      ([0xFE, 0xC2], .incEb (.reg .dl)),
      ([0xFE, 0x0E, 0x78, 0x56], .decEb (.mem (.direct 0x5678)))] readsAs = true := by
  decide

theorem test_words_Fx_b :
    List.all (α := List Byte × Instr) [
      ([0xFF, 0x00], .incEw (.mem (.based .bxsi .none))),
      ([0xFF, 0xCB], .decEw (.reg .bx)),
      ([0xFF, 0x91, 0x00, 0x80], .callEw (.mem (.based .bxdi (.d16 0x8000)))),
      ([0xFF, 0x23], .jmpEw (.mem (.based .bpdi .none))),
      ([0xFF, 0xF4], .pushEw (.reg .sp))] readsAs = true := by
  decide

/-- V8: the faults of decoding. -/
theorem test_decode_faults :
    List.all (α := List Byte × EmulationFault) [
      ([0x0F], .unknownOpcode 0x0F),
      ([0xF3, 0x90], .unknownOpcode 0xF3),
      ([0xF6, 0xE0], .unknownExtension 0xF6 4),
      ([0xFE, 0xD0], .unknownExtension 0xFE 2),
      ([0xD0, 0xF0], .unknownExtension 0xD0 6),
      ([0x8E, 0xC8], .badSegmentRegister 0x8E 1),
      ([0x8C, 0xE0], .badSegmentRegister 0x8C 4),
      ([0x27], .unknownOpcode 0x27)] faultsWith = true := by
  decide

/-- The table's numbering: ADD AL,Ib, FE /1 and a prefix row. -/
theorem test_table_words :
    decodeTableWord 8 0x04 = some (.addAlIb 0) ∧
      decodeTableWord 16 0xFE08 = some (.decEb (.mem (.based .bxsi .none))) ∧
      decodeTableWord 8 0x2E = some .csPrefix := by
  decide

/-- A row placed as the first instruction after reset is run by the next step. -/
theorem test_first_instruction :
    stepGives (State.reset.withFetchWord 8 0x04) (fun t => t.regs.ip == 0x0002#16) = true ∧
      stepGives (State.reset.withFetchWord 16 0xFE08) (fun t => t.regs.ip == 0x0002#16) = true := by
  decide

/-! ## Single steps -/

/-- V1.1: a negative disp8. -/
theorem test_mov_load :
    stepGives (code (withBytes
        (withRegs start fun g => { g with ds := 0x1000, bx := 0x0102 }) 0x10100 [0xEF, 0xBE])
      [0x8B, 0x47, 0xFE])
      (fun t => t.regs.ax == 0xBEEF && t.regs.ip == 0x0103) = true := by
  decide

/-- V1.2: the high byte at offset 0 of the segment. -/
theorem test_mov_word_wraps :
    stepGives (code (withBytes (withBytes
        (withRegs start fun g => { g with ds := 0x1000, bx := 0xFFFF })
        0x1FFFF [0x11]) 0x10000 [0x22])
      [0x8B, 0x07])
      (fun t => t.regs.ax == 0x2211) = true := by
  decide

/-- V1.3: the linear address wraps. -/
theorem test_mov_linear_wraps :
    stepGives (code (withBytes (withRegs start fun g => { g with ds := 0xFFFF }) 0 [0x5A])
      [0xA0, 0x10, 0x00])
      (fun t => t.regs.ax == 0x005A) = true := by
  decide

/-- V1.5: three overrides, DS last. -/
theorem test_last_override_wins :
    stepGives (code (withBytes (withBytes
        (withRegs start fun g => { g with es := 0x2000, ds := 0x1000, bx := 0x0010 })
        0x20010 [0x77]) 0x10010 [0x66])
      [0x26, 0x2E, 0x3E, 0x8A, 0x07])
      (fun t => t.regs.ax == 0x0066 && t.regs.ip == 0x0105) = true := by
  decide

/-- V1.6: BP+SI with DS. -/
theorem test_mov_bp_uses_ds :
    stepGives (code (withBytes (withBytes
        (withRegs start fun g => { g with bp := 0x10, si := 1, ds := 0x1000, ss := 0x3000 })
        0x10011 [0x44]) 0x30011 [0x55])
      [0x8A, 0x02])
      (fun t => t.regs.ax == 0x0044) = true := by
  decide

/-- V1.9: low byte at the lower address. -/
theorem test_mov_store :
    stepGives (code (withRegs start fun g => { g with ax := 0xBBAA, bx := 0x1234 })
      [0x89, 0x07])
      (fun t => t.memRead 0x1234 == 0xAA && t.memRead 0x1235 == 0xBB) = true := by
  decide

/-- V1.10: a write to the BIOS has no effect. -/
theorem test_mov_bios_ignored :
    stepGives (code (withRegs start fun g => { g with ds := 0xF000 })
      [0xC7, 0x06, 0x00, 0x00, 0x34, 0x12])
      (fun t => t.memRead 0xF0000 == 0x00 && t.regs.ip == 0x0106) = true := by
  decide

/-- V1.11. -/
theorem test_mov_high_half :
    stepGives (code (withRegs start fun g => { g with ax := 0x1234 })
      [0xB4, 0x09])
      (fun t => t.regs.ax == 0x0934) = true := by
  decide

/-- V1.12: the decremented SP is stored. -/
theorem test_push_sp :
    stepGives (code (withRegs start fun g => { g with sp := 0x0100 })
      [0x54])
      (fun t => t.regs.sp == 0x00FE && t.memRead 0xFE == 0xFE &&
        t.memRead 0xFF == 0x00) = true := by
  decide

/-- V1.13: the popped value stays. -/
theorem test_pop_sp :
    stepGives (code (withBytes (withRegs start fun g => { g with sp := 0x00FE }) 0xFE [0x34, 0x12])
      [0x5C])
      (fun t => t.regs.sp == 0x1234) = true := by
  decide

/-- V1.14. -/
theorem test_pushf :
    stepGives (code (withRegs start fun g => { g with sp := 0, flags := 0xF046 })
      [0x9C])
      (fun t => t.regs.sp == 0xFFFE && t.memRead 0xFFFE == 0x46 &&
        t.memRead 0xFFFF == 0xF0) = true := by
  decide

/-- V1.15: the write rule. -/
theorem test_popf :
    stepGives (code (withBytes (withRegs start fun g => { g with sp := 0x00FE }) 0xFE [0xFF, 0xFF])
      [0x9D])
      (fun t => t.regs.flags == 0xFFD7 && t.regs.sp == 0x0100) = true := by
  decide

/-- V1.17. -/
theorem test_mov_segment :
    stepGives (code (withRegs start fun g => { g with ax := 0x1000 })
      [0x8E, 0xD8])
      (fun t => t.regs.ds == 0x1000) = true := by
  decide

/-- V2.1. -/
theorem test_add_carry :
    stepGives (code (withRegs start fun g => { g with ax := 0x00FF })
      [0x04, 0x01])
      (fun t => t.regs.ax == 0 && t.regs.flags == 0xF057) = true := by
  decide

/-- V2.2. -/
theorem test_add_overflow :
    stepGives (code (withRegs start fun g => { g with ax := 0x007F })
      [0x04, 0x01])
      (fun t => t.regs.ax == 0x80 && t.regs.flags == 0xF892) = true := by
  decide

/-- V2.5. -/
theorem test_add_sign_extended :
    stepGives (code (withRegs start fun g => { g with ax := 1 })
      [0x83, 0xC0, 0xFF])
      (fun t => t.regs.ax == 0 && t.regs.flags == 0xF057) = true := by
  decide

/-- V2.6. -/
theorem test_adc :
    stepGives (code (withRegs start fun g => { g with ax := 0x00FF, flags := 0xF003 })
      [0x14, 0x00])
      (fun t => t.regs.ax == 0 && t.regs.flags == 0xF057) = true := by
  decide

/-- V2.7. -/
theorem test_sub_borrow :
    stepGives (code (withRegs start fun g => { g with ax := 0 })
      [0x2C, 0x01])
      (fun t => t.regs.ax == 0x00FF && t.regs.flags == 0xF097) = true := by
  decide

/-- V2.10. -/
theorem test_sbb :
    stepGives (code (withRegs start fun g => { g with ax := 0, flags := 0xF003 })
      [0x1C, 0x00])
      (fun t => t.regs.ax == 0x00FF && t.regs.flags == 0xF097) = true := by
  decide

/-- V2.11. -/
theorem test_cmp :
    stepGives (code (withRegs start fun g => { g with ax := 0x000F })
      [0x3C, 0x10])
      (fun t => t.regs.ax == 0x000F && t.regs.flags == 0xF087) = true := by
  decide

/-- V2.13. -/
theorem test_and_keeps_af :
    stepGives (code (withRegs start fun g => { g with ax := 0x003C, flags := 0xF011 })
      [0x24, 0x0F])
      (fun t => t.regs.ax == 0x000C && t.regs.flags == 0xF016) = true := by
  decide

/-- V2.14. -/
theorem test_or :
    stepGives (code (withRegs start fun g => { g with ax := 1, flags := 0xF801 })
      [0x0C, 0x80])
      (fun t => t.regs.ax == 0x0081 && t.regs.flags == 0xF086) = true := by
  decide

/-- V2.15: source and destination the same. -/
theorem test_xor :
    stepGives (code (withRegs start fun g => { g with ax := 0x1234 })
      [0x31, 0xC0])
      (fun t => t.regs.ax == 0 && t.regs.flags == 0xF046) = true := by
  decide

/-- V2.16. -/
theorem test_test :
    stepGives (code (withRegs start fun g => { g with ax := 0x0081 })
      [0xA8, 0x80])
      (fun t => t.regs.ax == 0x0081 && t.regs.flags == 0xF082) = true := by
  decide

/-- V2.17. -/
theorem test_inc_keeps_carry :
    stepGives (code (withRegs start fun g => { g with ax := 0x7FFF, flags := 0xF003 })
      [0x40])
      (fun t => t.regs.ax == 0x8000 && t.regs.flags == 0xF897) = true := by
  decide

/-- V2.18. -/
theorem test_dec :
    stepGives (code (withRegs start fun g => { g with ax := 0 })
      [0x48])
      (fun t => t.regs.ax == 0xFFFF && t.regs.flags == 0xF096) = true := by
  decide

/-- V2.20. -/
theorem test_neg :
    stepGives (code (withRegs start fun g => { g with ax := 0x0080 })
      [0xF6, 0xD8])
      (fun t => t.regs.ax == 0x0080 && t.regs.flags == 0xF883) = true := by
  decide

/-- V2.22. -/
theorem test_not :
    stepGives (code (withRegs start fun g => { g with ax := 0x00FF, flags := 0xF8D5 })
      [0xF7, 0xD0])
      (fun t => t.regs.ax == 0xFF00 && t.regs.flags == 0xF8D5) = true := by
  decide

/-- V3.1. -/
theorem test_rol :
    stepGives (code (withRegs start fun g => { g with ax := 0x0081 })
      [0xD0, 0xC0])
      (fun t => t.regs.ax == 0x0003 && t.regs.flags == 0xF803) = true := by
  decide

/-- V3.3. -/
theorem test_ror :
    stepGives (code (withRegs start fun g => { g with ax := 0x0001 })
      [0xD1, 0xC8])
      (fun t => t.regs.ax == 0x8000 && t.regs.flags == 0xF803) = true := by
  decide

/-- V3.4. -/
theorem test_rcl_by_nine :
    stepGives (code (withRegs start fun g => { g with ax := 0x0001, cx := 9 })
      [0xD2, 0xD0])
      (fun t => t.regs.ax == 0x0001) = true := by
  decide

/-- V3.5. -/
theorem test_rcr :
    stepGives (code (withRegs start fun g => { g with ax := 0x0001 })
      [0xD0, 0xD8])
      (fun t => t.regs.ax == 0 && t.regs.flags == 0xF003) = true := by
  decide

/-- V3.6. -/
theorem test_shl_past_width :
    stepGives (code (withRegs start fun g => { g with ax := 0x0001, cx := 9 })
      [0xD2, 0xE0])
      (fun t => t.regs.ax == 0) = true := by
  decide

/-- V3.13. -/
theorem test_shl_by_zero :
    stepGives (code (withRegs start fun g => { g with ax := 0x0081, flags := 0xF8D5 })
      [0xD2, 0xE0])
      (fun t => t.regs.ax == 0x0081 && t.regs.flags == 0xF8D5 && t.draws == 0) = true := by
  decide

/-- V3.10: the count is not masked. -/
theorem test_shr_count_whole :
    stepGives (code (withRegs start fun g => { g with ax := 0x00FF, cx := 0x20 })
      [0xD2, 0xE8])
      (fun t => t.regs.ax == 0) = true := by
  decide

/-- V3.11. -/
theorem test_sar :
    stepGives (code (withRegs start fun g => { g with ax := 0x8000, cx := 16 })
      [0xD3, 0xF8])
      (fun t => t.regs.ax == 0xFFFF) = true := by
  decide

/-- V4.1: a jump to itself. -/
theorem test_jmp_short :
    stepGives (code start
      [0xEB, 0xFE])
      (fun t => t.regs.ip == 0x0100) = true := by
  decide

/-- V4.3. -/
theorem test_jmp_near_wraps :
    stepGives (code start
      [0xE9, 0xFD, 0xFE])
      (fun t => t.regs.ip == 0x0000) = true := by
  decide

/-- V4.4. -/
theorem test_jmp_far :
    stepGives (code start
      [0xEA, 0x00, 0x01, 0x00, 0x20])
      (fun t => t.regs.cs == 0x2000 && t.regs.ip == 0x0100) = true := by
  decide

/-- V4.5. -/
theorem test_jmp_indirect :
    stepGives (code (withRegs start fun g => { g with bx := 0x0200 })
      [0xFF, 0xE3])
      (fun t => t.regs.ip == 0x0200) = true := by
  decide

/-- V4.6. -/
theorem test_call_near :
    stepGives (code (withRegs start fun g => { g with sp := 0x0100, ip := 0x0010 })
      [0xE8, 0xF0, 0x00])
      (fun t => t.regs.sp == 0x00FE && t.memRead 0xFE == 0x13 && t.memRead 0xFF == 0 &&
        t.regs.ip == 0x0103) = true := by
  decide

/-- V4.7. -/
theorem test_call_far :
    stepGives (code (withRegs start fun g => { g with cs := 0x1000, ip := 0, sp := 0x0100 })
      [0x9A, 0x34, 0x12, 0x00, 0x20])
      (fun t => t.regs.sp == 0x00FC && t.memRead 0xFC == 0x05 && t.memRead 0xFF == 0x10 &&
        t.regs.cs == 0x2000 && t.regs.ip == 0x1234) = true := by
  decide

/-- V4.8. -/
theorem test_ret_release :
    stepGives (code (withBytes (withRegs start fun g => { g with sp := 0x00FC }) 0xFC [0x50, 0x00])
      [0xC2, 0x04, 0x00])
      (fun t => t.regs.ip == 0x0050 && t.regs.sp == 0x0102) = true := by
  decide

/-- V4.9. -/
theorem test_jnz_not_taken :
    stepGives (code (withRegs start fun g => { g with flags := 0xF042 })
      [0x75, 0x05])
      (fun t => t.regs.ip == 0x0102) = true := by
  decide

/-- V4.11. -/
theorem test_jl_taken :
    stepGives (code (withRegs start fun g => { g with flags := 0xF082 })
      [0x7C, 0x05])
      (fun t => t.regs.ip == 0x0107) = true := by
  decide

/-- V4.14. -/
theorem test_loop_wraps :
    stepGives (code start
      [0xE2, 0xFE])
      (fun t => t.regs.cx == 0xFFFF && t.regs.ip == 0x0100) = true := by
  decide

/-- V4.15. -/
theorem test_loopz :
    stepGives (code (withRegs start fun g => { g with cx := 3, flags := 0xF042 })
      [0xE1, 0xFC])
      (fun t => t.regs.cx == 2 && t.regs.ip == 0x00FE) = true := by
  decide

/-- V4.16. -/
theorem test_jcxz :
    stepGives (code start
      [0xE3, 0x10])
      (fun t => t.regs.cx == 0 && t.regs.ip == 0x0112) = true := by
  decide

/-- V4.17. -/
theorem test_int :
    stepGives (code (withBytes
        (withRegs start fun g => { g with flags := 0xF202 }) 0x80 [0x20, 0x00, 0x00, 0xF0])
      [0xCD, 0x20])
      (fun t => t.regs.sp == 0x7FFA && t.regs.cs == 0xF000 && t.regs.ip == 0x0020 &&
        t.regs.flags == 0xF002 && t.memRead 0x7FFA == 0x02 && t.memRead 0x7FFB == 0x01 &&
        t.memRead 0x7FFF == 0xF2) = true := by
  decide

/-- V4.18. -/
theorem test_into_without_overflow :
    stepGives (code start
      [0xCE])
      (fun t => t.regs.ip == 0x0101 && t.regs.sp == 0x8000) = true := by
  decide

/-- V4.19. -/
theorem test_iret :
    stepGives (code (withBytes
        (withRegs start fun g => { g with sp := 0x7FFA })
        0x7FFA [0x02, 0x01, 0x00, 0x00, 0x02, 0xF2])
      [0xCF])
      (fun t => t.regs.ip == 0x0102 && t.regs.cs == 0 && t.regs.flags == 0xF202 &&
        t.regs.sp == 0x8000) = true := by
  decide

/-- V4.20. -/
theorem test_hlt :
    stepGives (code start
      [0xF4])
      (fun t => t.regs.ip == 0x0100) = true := by
  decide

/-- V5.3. -/
theorem test_cmc :
    stepGives (code start
      [0xF5])
      (fun t => t.regs.flags == 0xF003) = true := by
  decide

/-- V5.5. -/
theorem test_sti :
    stepGives (code start
      [0xFB])
      (fun t => t.regs.flags == 0xF202) = true := by
  decide

/-- V6.1. -/
theorem test_out_control_word :
    stepGives (code (withRegs start fun g => { g with ax := 0x0036 })
      [0xE6, 0x43])
      (fun t => t.pit.ch0.mode == .m3 && t.pit.ch0.access == .lohi && t.pit.ch0.out &&
        !t.pit.ch0.writeHigh) = true := by
  decide

/-- V6.2: the low byte to port 42, the high byte to port 43. -/
theorem test_out_word :
    stepGives (code (withRegs start fun g => { g with ax := 0x3603 })
      [0xE7, 0x42])
      (fun t => t.pit.ch2.writeIncomplete && t.pit.ch0.mode == .m3) = true := by
  decide

/-- V8.2: IP stays at the override. -/
theorem test_fault_after_override :
    stepGives (code start
      [0x2E, 0x0F])
      (fun t => t.regs == start.regs && t.faultStatus &&
        t.log == [.fault (.unknownOpcode 0x0F) 0x0000 0x0100]) = true := by
  decide

/-- V3.4, V3.6, V3.10, V3.11: the value and CF; the flags the spec leaves open are not looked at. -/
theorem test_shift_values :
    shiftSteps .rcl 9 0x01#8 false = (0x01, false) ∧
      shiftSteps .shl 9 0x01#8 false = (0x00, false) ∧
      shiftSteps .shr 0x20 0xFF#8 false = (0x00, false) ∧
      shiftSteps .sar 16 0x8000#16 false = (0xFFFF, true) := by
  decide

/-- R10: a prefix row taken out of IMPLEMENTED faults, with IP at the first prefix. -/
theorem test_removed_prefix :
    stepGives { code start [0x26, 0x2E, 0x90] with
        cfg := { Config.default with removedRows := [⟨0x2E, none⟩] } }
      (fun t => t.regs == start.regs && t.faultStatus &&
        t.log == [.fault (.notImplemented 0x2E none) 0x0000 0x0100]) = true := by
  decide

/-- R425: an unknown opcode faults before a removed prefix does. -/
theorem test_removed_prefix_unknown_opcode :
    stepGives { code start [0x2E, 0x0F] with
        cfg := { Config.default with removedRows := [⟨0x2E, none⟩] } }
      (fun t => t.log == [.fault (.unknownOpcode 0x0F) 0x0000 0x0100]) = true := by
  decide

/-! ## The devices -/

/-- S3: mode 0 with count 3 written low byte first; the output rises at the third tick after the load
tick and stays. -/
theorem test_timer_mode0 :
    let ch := (((Channel.reset true).setAccessMode .lohi).setTimerMode 0 |>.writeByte false 3
      |>.writeByte false 0)
    (List.map (fun n => ((Channel.tick^[n] ch).counter, (Channel.tick^[n] ch).out)) [1, 3, 4, 5]) =
      [(3, false), (1, false), (0, true), (0xFFFF, true)] := by
  decide

/-- S4: mode 3 with the odd count 9. -/
theorem test_timer_mode3 :
    let ch := (((Channel.reset true).setAccessMode .lohi).setTimerMode 3 |>.writeByte false 9
      |>.writeByte false 0)
    (List.map (fun n => ((Channel.tick^[n] ch).counter, (Channel.tick^[n] ch).out))
        [1, 2, 3, 5, 6, 7, 11]) =
      [(9, true), (8, true), (6, true), (2, true), (9, false), (8, false), (9, true)] := by
  decide

/-- S5: IRQ3 before IRQ5, and no second acknowledgement before the end of interrupt. -/
theorem test_pic_priority :
    let p := ({ Pic.reset with vectorBase := 0x08 } : Pic).setInterrupt 3 |>.setInterrupt 5
    let q := p.acknowledge.2
    let r := q.writeCommand 0x20
    p.irr = 0x28 ∧ p.acknowledge.1 = some 0x0B ∧ q.irr = 0x20 ∧ q.isr = 0x08 ∧
      q.acknowledge = (none, q) ∧ r.isr = 0x00 ∧ r.irr = 0x20 ∧
      r.acknowledge.1 = some 0x0D := by
  decide

/-- V7.1: the initialisation sequence. -/
theorem test_pic_initialisation :
    let p := ((Pic.reset.writeCommand 0x11).writeData 0x20 |>.writeData 0x04 |>.writeData 0x01)
    p.stage = .done ∧ p.vectorBase = 0x20 ∧ p.cascade = 0x04 ∧ p.single = false ∧
      p.needIcw4 = true ∧ p.imr = 0x00 := by
  decide

/-- V6.9: the output of channel 2 in bit 5 of port 61. -/
theorem test_port61 :
    ({ Pit.reset with p61 := 0x01, ch2 := { Channel.reset true with out := true } } : Pit).read61 =
        0x21 ∧
      ({ Pit.reset with p61 := 0xFF } : Pit).read61 = 0xDF := by
  decide

/-! ## The hypotheses of the statements are met -/

/-- The premise of the instruction statements: MovRegisterOrMemory, MovSegmentRegister,
MovDirectOffset, MovImmediate, PushRows, PopRows, InRows, OutRows, AluForms, TestForms, IncAndDec,
NegAndNot, AddBytesProperty, ShiftForms, JumpsAndCalls, Returns, ReturnsUndoCalls, ConditionalJumps,
CompareThenBranch, Loops, SoftwareInterrupts, InterruptReturnRow, InterruptReturnRestores,
FlagInstructions, InterruptDelivery. -/
theorem hyps_cpuOk : CpuOk start := ⟨by decide, by decide, by decide, by decide⟩

/-- It is met with bytes in memory, too. -/
theorem hyps_cpuOk_memory : CpuOk (withBytes start 0x80 [0x20, 0x00, 0x00, 0xF0]) :=
  ⟨by decide, by decide, by decide, by decide⟩

theorem resetPit_ok : PitOk Pit.reset := by
  unfold PitOk ChannelOk
  decide

/-- ConstructionFillsMemory: the last byte of an image, and a RAM byte below it. -/
theorem hyps_ConstructionFillsMemory :
    let c := Config.default
    let bios := List.replicate 3 (0x90 : Byte)
    let ram := List.replicate 2 (0x11 : Byte)
    2 < bios.length ∧ 1 < ram.length ∧ 1 < c.ramSize ∧
      ¬(c.biosBase ≤ 1 ∧ 1 < c.biosBase + bios.length) := by decide

/-- ResetMeetsInvariant, ComparisonLaws (with the widths 8 and 16). -/
theorem hyps_ResetMeetsInvariant :
    Config.default.wf = true ∧ ({ Config.default with flagsAlwaysSet := 0x0002 } : Config).wf = true := by
  decide

theorem stepGives_next {s : State} {p : State → Bool} (h : stepGives s p = true) :
    ∃ t, step s = .next t := by
  unfold stepGives at h
  split at h
  · exact ⟨_, ‹_›⟩
  · cases h
  · cases h

/-- StepKeepsInvariant: NOP. -/
theorem hyps_StepKeepsInvariant : ∃ s t : State, Inv s ∧ step s = .next t :=
  let ⟨t, h⟩ := stepGives_next (s := code start [0x90]) (p := fun _ => true) (by decide)
  ⟨code start [0x90], t, ⟨⟨⟨by decide, by decide, by decide, by decide⟩, ⟨by decide, .inl rfl⟩,
    resetPit_ok⟩, rfl, rfl⟩, h⟩

/-- FlagsWriteRule: bits of the mask at both ends, and the always-clear bits. -/
theorem hyps_FlagsWriteRule :
    start.cfg.wf = true ∧ start.cfg.flagsAlwaysSet.getLsbD 1 = true ∧
      start.cfg.flagsAlwaysSet.getLsbD 15 = true := by decide

/-- MemoryByteAccess: both wraps of the linear address; the ends of both regions, with and without a
BIOS that can be written; an unmapped address. -/
theorem hyps_MemoryByteAccess :
    let c := Config.default
    let inBios (a : Nat) : Prop := c.biosBase ≤ a ∧ a < c.biosBase + c.biosSize
    Config.default.a20Wrap = true ∧ ({ c with a20Wrap := false } : Config).a20Wrap = false ∧
      (withBytes start 0xEFFFF [0x11]).mem.wf = true ∧
      (inBios 0xF0000 ∧ inBios 0xFFFFF ∧ c.biosWritable = false) ∧
      ({ c with biosWritable := true } : Config).biosWritable = true ∧
      (¬inBios 0xEFFFF ∧ 0xEFFFF < c.ramSize) ∧ (¬inBios 0x100000 ∧ ¬0x100000 < c.ramSize) := by
  decide

/-- MemoryWordAccess: a word at the end of its segment. -/
theorem hyps_MemoryWordAccess :
    start.mem.wf = true ∧ writable start.cfg (linear start.cfg 0x1000 0xFFFF) = true ∧
      writable start.cfg (linear start.cfg 0x1000 (BitVec.ofNat 16 (0xFFFF + 1))) = true := by
  decide

/-- DecodeOfEncode, EveryInstructionFrame, ParametersRemoveRows: the longest form. -/
theorem hyps_DecodeOfEncode :
    (Instr.movEwIw (.mem (.based .bp (.d16 0xFFFF))) 0xFFFF).wf = true := by decide

/-- EncodeOfDecode. -/
theorem hyps_EncodeOfDecode :
    decode [0xC7, 0x86, 0xFF, 0xFF, 0xCD, 0xAB, 0x90] =
      .ok (.movEwIw (.mem (.based .bp (.d16 0xFFFF))) 0xABCD, [0x90]) := by rfl

/-- SixBytesDecode, with a list that decodes and one that faults. -/
theorem hyps_SixBytesDecode :
    ([0xC7, 0x86, 0xFF, 0xFF, 0xCD, 0xAB] : List Byte).length = 6 ∧
      ([0x0F, 0, 0, 0, 0, 0] : List Byte).length = 6 := by decide

/-- ParametersRemoveRows: the first removed prefix after one that stays, and prefixes that all stay. -/
theorem hyps_ParametersRemoveRows_prefixes :
    let c : Config := { Config.default with removedRows := [⟨0x2E, none⟩, ⟨0x36, none⟩] }
    ([0x26, 0x2E, 0x36] : List Byte) = [0x26] ++ 0x2E :: [0x36] ∧
      (∀ x ∈ ([0x26] : List Byte), (⟨x, none⟩ : RowId) ∉ c.removedRows) ∧
      (⟨0x2E, none⟩ : RowId) ∈ c.removedRows ∧
      (⟨0x26, none⟩ : RowId) ∉ c.removedRows ∧ (⟨0x3E, none⟩ : RowId) ∉ c.removedRows :=
  ⟨rfl, by simp, by decide, by decide, by decide⟩

/-- ParametersRemoveRows: a row without its memory form, a row taken out, a row that stays. -/
theorem hyps_ParametersRemoveRows :
    let c : Config := { Config.default with
      removedRows := [⟨0x90, none⟩, ⟨0xFE, some 1⟩], regOnlyRows := [⟨0x88, none⟩, ⟨0xFE, some 1⟩] }
    (hasModrm 0x88 = true ∧ modField 0x07 ≠ 3#2 ∧ (⟨0x88, none⟩ : RowId) ∈ c.regOnlyRows) ∧
      (isGroup 0xFE = true ∧ modField 0x0F ≠ 3#2 ∧ (⟨0xFE, some (regField 0x0F)⟩ : RowId) ∈
        c.regOnlyRows) ∧
      (¬(hasModrm 0x90 = true) ∧ (⟨0x90, none⟩ : RowId) ∈ c.removedRows) ∧
      (modField 0xC8 = 3#2 ∧ (⟨0xFE, some (regField 0xC8)⟩ : RowId) ∈ c.removedRows) ∧
      (⟨0xF4, none⟩ : RowId) ∉ c.removedRows := by
  decide

/-- EffectiveAddresses: a register, and each displacement with the ends of rm. -/
theorem hyps_EffectiveAddresses :
    modField 0xC0 = 3#2 ∧ modField 0xFF = 3#2 ∧
      ((modField 0x06).toNat = 0 ∧ (rmField 0x06).toNat = 6) ∧
      ((modField 0x07).toNat = 0 ∧ (rmField 0x07).toNat ≠ 6) ∧
      ((modField 0x46).toNat = 1 ∧ (modField 0x47).toNat = 1) ∧
      ((modField 0x80).toNat = 2 ∧ (modField 0xBF).toNat = 2) ∧ modField 0xBF ≠ 3#2 := by
  decide

/-- OperandSegments. -/
theorem hyps_OperandSegments :
    ({ start with segOvr := some .ss } : State).segOvr = some .ss ∧ start.segOvr = none ∧
      start.cfg.bpUsesSs = false ∧
      ({ Config.default with bpUsesSs := true } : Config).bpUsesSs = true := by decide

/-- StepRunsDecodedInstruction: MOV AH,Ib. -/
theorem hyps_StepRunsDecodedInstruction :
    let s := code start [0xB4, 0x09]
    s.schedule = [] ∧ s.faultStatus = false ∧ CycleIdle s ∧ isPrefixByte (s.fetchByte 0) = false ∧
      decode s.fetchBytes = .ok (.movAhIb 0x09, [0x00, 0x00, 0x00, 0x00]) ∧
      parameterFault s.cfg [] s.fetchBytes = none :=
  ⟨rfl, rfl, ⟨rfl, rfl⟩, by decide, by rfl, by decide⟩

/-- Two overrides before MOV AL,Eb. -/
theorem afterPrefixes_two :
    AfterPrefixes (code start [0x26, 0x2E, 0x8A, 0x07]) [.es, .cs]
      { code start [0x26, 0x2E, 0x8A, 0x07] with segOvr := some .cs, prefixLen := 2#16 } :=
  ⟨by decide, by decide, rfl, by decide⟩

/-- LastPrefixDecides, with two overrides. -/
theorem hyps_LastPrefixDecides :
    let s := code start [0x26, 0x2E, 0x8A, 0x07]
    let u : State := { s with segOvr := some .cs, prefixLen := 2#16 }
    s.schedule = [] ∧ s.faultStatus = false ∧ AfterPrefixes s [.es, .cs] u ∧
      decode u.fetchBytes = .ok (.movGbEb .al (.mem (.based .bx .none)), [0, 0, 0, 0]) ∧
      parameterFault s.cfg [0x26, 0x2E] u.fetchBytes = none :=
  ⟨rfl, rfl, afterPrefixes_two, by rfl, by decide⟩

/-- LastPrefixDecides, with none. -/
theorem hyps_LastPrefixDecides_none :
    let s := code start [0x90]
    s.schedule = [] ∧ s.faultStatus = false ∧ AfterPrefixes s [] s ∧
      decode s.fetchBytes = .ok (.nop, [0, 0, 0, 0, 0]) ∧
      parameterFault s.cfg [] s.fetchBytes = none :=
  ⟨rfl, rfl, ⟨by decide, by decide, rfl, by decide⟩, by rfl, by decide⟩

/-- EmulationFaultTaken: an opcode that is not admitted after one override. -/
theorem hyps_EmulationFaultTaken :
    let s := code start [0x2E, 0x0F]
    let u : State := { s with segOvr := some .cs, prefixLen := 1#16 }
    s.schedule = [] ∧ s.faultStatus = false ∧ CycleIdle s ∧ AfterPrefixes s [.cs] u ∧
      decode u.fetchBytes = .error (.fault (.unknownOpcode 0x0F)) :=
  ⟨rfl, rfl, ⟨rfl, rfl⟩, ⟨by decide, by decide, rfl, by decide⟩, by rfl⟩

/-- EmulationFaultTaken: a row that the parameters take out. -/
theorem hyps_EmulationFaultTaken_removed :
    let s : State := { code start [0x90] with
      cfg := { Config.default with removedRows := [⟨0x90, none⟩] } }
    s.schedule = [] ∧ s.faultStatus = false ∧ CycleIdle s ∧ AfterPrefixes s [] s ∧
      decode s.fetchBytes = .ok (.nop, [0, 0, 0, 0, 0]) ∧
      parameterFault s.cfg [] s.fetchBytes = some (.notImplemented 0x90 none) :=
  ⟨rfl, rfl, ⟨rfl, rfl⟩, ⟨by decide, by decide, rfl, by decide⟩, by rfl, by decide⟩

/-- EmulationFaultTaken: a prefix whose row the parameters take out, after one that stays. -/
theorem hyps_EmulationFaultTaken_prefix :
    let s : State := { code start [0x26, 0x2E, 0x90] with
      cfg := { Config.default with removedRows := [⟨0x2E, none⟩] } }
    let u : State := { s with segOvr := some .cs, prefixLen := 2#16 }
    s.schedule = [] ∧ s.faultStatus = false ∧ CycleIdle s ∧ AfterPrefixes s [.es, .cs] u ∧
      decode u.fetchBytes = .ok (.nop, [0, 0, 0, 0, 0]) ∧
      parameterFault s.cfg ([SReg.es, .cs].map Row.segPrefixByte) u.fetchBytes =
        some (.notImplemented 0x2E none) :=
  ⟨rfl, rfl, ⟨rfl, rfl⟩, ⟨by decide, by decide, rfl, by decide⟩, by rfl, by decide⟩

/-- EmulationFaultTaken, its second part, and StuckAfterFault. -/
theorem hyps_StuckAfterFault :
    let s : State := { start with faultStatus := true }
    s.faultStatus = true ∧ s.schedule = [] ∧
      hostCall .tick s = .next { s with pit := s.pit.tick } := ⟨rfl, rfl, rfl⟩

/-- EveryInstructionFrame. -/
theorem hyps_EveryInstructionFrame :
    (Instr.intIb 0xFF).wf = true ∧ (Instr.outDxAx).wf = true ∧ start.cfg.wf = true := by decide

/-- UnwritableBytesNeverChange: a store to the first byte of the BIOS. -/
theorem hyps_UnwritableBytesNeverChange :
    let s := code (withRegs start fun g => { g with ds := 0xF000 }) [0xA2, 0x00, 0x00]
    stepGives s (fun _ => true) = true ∧ writable s.cfg 0xF0000 = false ∧
      writable s.cfg 0xFFFFF = false := by decide

/-- MovSegmentRegister: each refused code, and a destination other than CS. -/
theorem hyps_MovSegmentRegister :
    SReg.es ≠ .cs ∧ SReg.ds ≠ .cs ∧ 4 ≤ (regField 0xE0).toNat ∧ 4 ≤ (regField 0x3F).toNat ∧
      regField 0xC8 = 1#3 := by decide

/-- MovImmediate, TestForms, JumpsAndCalls, ShiftForms, PopRows: the refused extensions. -/
theorem hyps_refused_extensions :
    regField 0xC8 ≠ 0#3 ∧ regField 0x38 ≠ 0#3 ∧ regField 0xC8 = 1#3 ∧ regField 0xD8 = 3#3 ∧
      regField 0xE8 = 5#3 ∧ regField 0xF0 = 6#3 ∧ 0xD0 ≤ (0xD0#8).toNat ∧ (0xD3#8).toNat ≤ 0xD3 := by
  decide

/-- PopRows: each segment register that has a POP. -/
theorem hyps_PopRows :
    Row.popSeg .es = some .popEs ∧ Row.popSeg .ss = some .popSs ∧ Row.popSeg .ds = some .popDs := by
  decide

/-- InRows and OutRows: both kinds of port. -/
theorem hyps_InRows :
    (∃ b, Instr.inAlIb 0xFF = .inAlIb b ∧ 0x00FF#16 = BitVec.ofNat 16 b.toNat ∧
      [0xE4, 0xFF] = [0xE4#8, b]) ∧
      (∃ b, Instr.outIbAx 0x00 = .outIbAx b ∧ 0x0000#16 = BitVec.ofNat 16 b.toNat ∧
        [0xE7, 0x00] = [0xE7#8, b]) ∧
      start.view.gen .dx = 0x0000#16 :=
  ⟨⟨0xFF, rfl, rfl, rfl⟩, ⟨0x00, rfl, rfl, rfl⟩, rfl⟩

/-- PortRouting: the ends of the alias range, and ports beside every routed one. -/
theorem hyps_PortRouting :
    (0x50 ≤ (0x0050#16).toNat ∧ (0x005F#16).toNat ≤ 0x5F) ∧
      ∀ n ∈ [0x00, 0x1F, 0x22, 0x3F, 0x44, 0x4F, 0x60, 0x62, 0xFFFF],
        let p := BitVec.ofNat 16 n
        p ≠ 0x20#16 ∧ p ≠ 0x21#16 ∧ ¬(0x40 ≤ p.toNat ∧ p.toNat ≤ 0x43) ∧
        ¬(0x50 ≤ p.toNat ∧ p.toNat ≤ 0x5F) ∧ p ≠ 0x61#16 := by
  decide

/-- ShiftForms and ShiftsByCount: counts 0, 1 and 255 in CL. -/
theorem hyps_ShiftForms :
    (start.view.byte .cl).toNat = 0 ∧
      ((withRegs start fun g => { g with cx := 1 }).view.byte .cl).toNat = 1 ∧
      ((withRegs start fun g => { g with cx := 0xFF }).view.byte .cl).toNat = 255 := by decide

/-- ReturnsUndoCalls and InterruptReturnRestores: a stack in RAM, also across the end of the segment. -/
theorem hyps_ReturnsUndoCalls :
    (∀ k : Nat, k < 6 → writable start.cfg
      (linear start.cfg start.regs.ss (start.regs.sp - BitVec.ofNat 16 (k + 1))) = true) ∧
      let s := withRegs start fun g => { g with sp := 0x0001 }
      ∀ k : Nat, k < 6 → writable s.cfg
        (linear s.cfg s.regs.ss (s.regs.sp - BitVec.ofNat 16 (k + 1))) = true := by
  decide

/-- ConditionalJumps: each condition holds with some flags and fails with others. -/
theorem hyps_ConditionalJumps :
    (∀ c ∈ [Row.Cond.o, .b, .z, .be, .s, .p], c.holds (fun _ => true) ∧ ¬c.holds fun _ => false) ∧
      (∀ c ∈ [Row.Cond.no, .nb, .nz, .a, .ns, .np], c.holds (fun _ => false) ∧
        ¬c.holds fun _ => true) ∧
      (∀ c ∈ [Row.Cond.l, .le], (c.holds fun f => f == .sf) ∧ ¬c.holds fun _ => false) ∧
      ∀ c ∈ [Row.Cond.ge, .g], c.holds (fun _ => false) ∧ ¬c.holds fun f => f == .sf := by
  simp +decide [Row.Cond.holds]

/-- Loops: CX = 1 ends the loop, CX = 0 goes on; ZF both ways; JCXZ both ways. -/
theorem hyps_Loops :
    ((withRegs start fun g => { g with cx := 1 }).view.gen .cx - 1#16 = 0#16) ∧
      start.view.gen .cx - 1#16 ≠ 0#16 ∧ start.view.flag .zf = false ∧
      (withRegs start fun g => { g with flags := 0xF042 }).view.flag .zf = true ∧
      start.view.gen .cx = 0#16 ∧
      (withRegs start fun g => { g with cx := 1 }).view.gen .cx ≠ 0#16 := by decide

/-- SoftwareInterrupts: INTO both ways. -/
theorem hyps_SoftwareInterrupts :
    (withRegs start fun g => { g with flags := 0xF802 }).view.flag .ofl = true ∧
      start.view.flag .ofl = false := by decide

/-- HaltStays. -/
theorem hyps_HaltStays :
    let s := code start [0xF4]
    Inv s ∧ Finished s ∧ s.schedule = [] ∧ (⟨0xF4#8, none⟩ : RowId) ∉ s.cfg.removedRows :=
  ⟨⟨⟨⟨by decide, by decide, by decide, by decide⟩, ⟨by decide, .inl rfl⟩,
    resetPit_ok⟩, rfl, rfl⟩, ⟨by decide, by decide, by decide⟩, rfl,
    by decide⟩

/-- InterruptDelivery: a request that is taken, and each reason for none. -/
theorem hyps_InterruptDelivery :
    let s : State := { withRegs start (fun g => { g with flags := 0xF202 }) with
      pic := { Pic.reset with irr := 0x80, vectorBase := 0x08 } }
    (s.faultStatus = false ∧ s.view.flag .ifl = true ∧
      s.pic.acknowledge =
        (some 0x0F, { Pic.reset with isr := 0x80, vectorBase := 0x08 })) ∧
      start.view.flag .ifl = false ∧ start.pic.acknowledge.1 = none ∧
      ({ start with faultStatus := true } : State).faultStatus = true := by decide

/-- ControllerWrites: each kind of command word and each stage. -/
theorem hyps_ControllerWrites :
    (0x10#8).getLsbD 4 = true ∧ ((0x20#8).getLsbD 4 = false ∧ (0x20#8).getLsbD 3 = false) ∧
      ((0x0B#8).getLsbD 4 = false ∧ (0x0B#8).getLsbD 3 = true) ∧ Pic.reset.stage = .idle ∧
      (Pic.reset.writeCommand 0x11).stage = .expectIcw2 ∧
      ((Pic.reset.writeCommand 0x11).writeData 0).stage = .expectIcw3 ∧
      (((Pic.reset.writeCommand 0x11).writeData 0).writeData 0).stage = .expectIcw4 ∧
      ((((Pic.reset.writeCommand 0x11).writeData 0).writeData 0).writeData 0).stage = .done := by
  decide

/-- InitialisationSequence: the four ICW1 words. -/
theorem hyps_InitialisationSequence :
    ∀ n ∈ [0, 1, 2, 3],
      let w := BitVec.ofNat 8 (0x10 + n)
      w.getLsbD 4 = true ∧ ((w.getLsbD 1 = true ∧ w.getLsbD 0 = false) ↔ n = 2) ∧
        ((w.getLsbD 1 = true ∧ w.getLsbD 0 = true) ↔ n = 3) ∧
        ((w.getLsbD 1 = false ∧ w.getLsbD 0 = false) ↔ n = 0) ∧
        ((w.getLsbD 1 = false ∧ w.getLsbD 0 = true) ↔ n = 1) := by
  decide

/-- RequestsAndAcknowledge: line 0, and line 7 below a masked line. -/
theorem hyps_RequestsAndAcknowledge :
    let p := { Pic.reset with irr := 0x81 }
    let q := { Pic.reset with irr := 0x81, imr := 0x01 }
    (p.isr = 0x00#8 ∧ p.irr.getLsbD 0 = true ∧ p.imr.getLsbD 0 = false) ∧
      (q.isr = 0x00#8 ∧ q.irr.getLsbD 7 = true ∧ q.imr.getLsbD 7 = false ∧
        ∀ j, j < 7 → q.irr.getLsbD j = true → q.imr.getLsbD j = true) := by
  decide

/-- RequestsAndAcknowledge: nothing to acknowledge, either way. -/
theorem hyps_RequestsAndAcknowledge_none :
    ({ Pic.reset with isr := 0x01 } : Pic).isr ≠ 0x00#8 ∧
      ∀ j, j < 8 → Pic.reset.irr.getLsbD j = true → Pic.reset.imr.getLsbD j = true := by
  decide

/-- ControlWords: no channel; each channel; the latch command; each access mode; each mode. -/
theorem hyps_ControlWords :
    (0xC0#8).extractLsb' 6 2 = 3#2 ∧
      ((0x00#8).extractLsb' 6 2 = 0#2 ∧ (0x40#8).extractLsb' 6 2 = 1#2 ∧
        (0x80#8).extractLsb' 6 2 = 2#2 ∧ (0x80#8).extractLsb' 4 2 = 0#2) ∧
      ((0x10#8).extractLsb' 4 2 = 1#2 ∧ (0x20#8).extractLsb' 4 2 = 2#2 ∧
        (0x30#8).extractLsb' 4 2 = 3#2) ∧
      ∀ k < 8, (BitVec.ofNat 8 (0x30 + 2 * k)).extractLsb' 1 3 = BitVec.ofNat 3 k := by
  decide

/-- CountsWrittenAndRead: a channel in each access mode, and one that can be latched. -/
theorem hyps_CountsWrittenAndRead :
    ∀ a ∈ [AccessMode.lo, .hi, .lohi],
      let ch := ((Channel.reset true).setAccessMode a).setTimerMode 2
      ch.mode ≠ .m1 ∧ ch.mode ≠ .m5 ∧ ch.writeHigh = false ∧ ch.writeIncomplete = false ∧
        ch.access = a ∧ ch.latchArmed = false ∧ ch.readHigh = false := by
  decide

/-- GateEdges: each kind of level. -/
theorem hyps_GateEdges :
    1 < 2 ∧ 1 = (Channel.reset true).gate.toNat ∧ 0 = (Channel.reset false).gate.toNat ∧
      (Channel.reset false).gate = false ∧ (Channel.reset true).gate = true := by decide

/-- CountdownModes: the counts 1 and 0xFFFF in each mode, loaded or triggered. -/
theorem hyps_CountdownModes :
    ∀ n ∈ [0x0001, 0xFFFF],
      let ch : Channel := { Channel.reset true with setValue := BitVec.ofNat 16 n, loadPending := true }
      ch.setValue ≠ 0#16 ∧ ch.writeIncomplete = false ∧
        (ch.loadPending || ch.triggerPending) = true ∧ ch.mode = .m0 ∧ ch.gate = true ∧
        ch.out = false ∧ ({ ch with mode := .m4 } : Channel).gate = true := by
  decide

/-- CountdownModes: a rising gate triggers modes 1 and 5. -/
theorem hyps_CountdownModes_triggered :
    ∀ m ∈ [TimerMode.m1, .m5],
      let ch := ({ Channel.reset false with mode := m, setValue := 1 } : Channel).setGate 1
      ch.setValue ≠ 0#16 ∧ ch.writeIncomplete = false ∧
        (ch.loadPending || ch.triggerPending) = true ∧ ch.mode = m := by
  decide

/-- PeriodicModes: the counts 1, 2 and 0xFFFF in modes 2 and 3. -/
theorem hyps_PeriodicModes :
    ∀ n ∈ [0x0001, 0x0002, 0xFFFF],
      let ch : Channel := { Channel.reset true with
        mode := .m2, setValue := BitVec.ofNat 16 n, loadPending := true, out := true }
      ch.writeIncomplete = false ∧ ch.gate = true ∧
        (ch.loadPending || ch.triggerPending) = true ∧ ch.out = true ∧
        (n = 1 ∨ 2 ≤ ch.setValue.toNat) := by
  decide

end Sys2Proof.Tests
end

section
/-! The state after construction and after reset (10_state.md section 7). -/

namespace Sys2Proof.Machine

/-! ## Construction (10_state.md R51 to R54) -/

/-- A run of bytes stored from `a` on leaves every address outside it alone. -/
theorem Memory.read_load_outside (m : Memory) (a : Nat) (bs : List Byte) {b : Nat}
    (h : ¬(a ≤ b ∧ b < a + bs.length)) : (m.load a bs).read b = m.read b := by
  induction bs generalizing m a with
  | nil => rfl
  | cons v r ih =>
    rw [List.length_cons] at h
    rw [Memory.load, ih _ _ (by omega), Memory.read_write_ne m v (by omega)]

/-- The k-th byte of a run stored from `a` on is read at `a + k`. -/
theorem Memory.read_load_inside {m : Memory} (hm : m.wf = true) (a : Nat) {bs : List Byte}
    {k : Nat} (hk : k < bs.length) : (m.load a bs).read (a + k) = bs[k] := by
  induction bs generalizing m a k with
  | nil => cases hk
  | cons v r ih =>
    rw [Memory.load]
    cases k with
    | zero => rw [Memory.read_load_outside _ _ _ (by omega)]; exact Memory.read_write_same hm a v
    | succ k =>
      rw [show a + (k + 1) = a + 1 + k by omega]
      exact ih (Memory.wf_write hm a v) (a + 1) (Nat.lt_of_succ_lt_succ hk)

/-- The BIOS region that construction maps is as long as the image (20_memory.md R87). -/
theorem State.memRead_construct_bios (c : Config) (init : Regs) (ram bios : List Byte) {a : Nat}
    (h : c.biosBase ≤ a ∧ a < c.biosBase + bios.length) :
    (State.construct c init ram bios).memRead a =
      ((Memory.load [] 0 ram).load c.biosBase bios).read a := by
  simp [State.memRead, State.construct, State.resetWith, route, h]

theorem State.memRead_construct_ram (c : Config) (init : Regs) (ram bios : List Byte) {a : Nat}
    (hram : a < c.ramSize) (h : ¬(c.biosBase ≤ a ∧ a < c.biosBase + bios.length)) :
    (State.construct c init ram bios).memRead a =
      ((Memory.load [] 0 ram).load c.biosBase bios).read a := by
  simp [State.memRead, State.construct, State.resetWith, route, h, hram]

/-- Settles O2: the BIOS image is the last load, and the RAM image's bytes outside it stay. -/
theorem constructionFillsMemory : Obligations.ConstructionFillsMemory := by
  unfold Obligations.ConstructionFillsMemory
  intro c init ram bios
  refine ⟨fun k hk => ?_, fun k hk hram hout => ?_⟩
  · rw [State.memRead_construct_bios _ _ _ _ ⟨by omega, by omega⟩]
    exact Memory.read_load_inside (Memory.wf_load rfl 0 ram) _ hk
  · rw [State.memRead_construct_ram _ _ _ _ hram hout, Memory.read_load_outside _ _ _ hout]
    simpa using Memory.read_load_inside (m := []) rfl 0 hk

/-- Only the gate of channel 2 starts low (10_state.md R52). -/
theorem Pit.get_reset (i : ChannelId) : Pit.reset.get i = Channel.reset (i != .c2) := by
  cases i <;> rfl

/-- Settles O1: field by field, with the registers and the channels by their codes. -/
theorem constructionResetsMachine : Obligations.ConstructionResetsMachine := by
  unfold Obligations.ConstructionResetsMachine
  intro c init ram bios
  have hgen : ∀ r, (State.construct c init ram bios).regs.r16 r = init.r16 r := by
    intro r; cases r <;> rfl
  have hseg : ∀ r : SReg, r ≠ .cs → (State.construct c init ram bios).regs.sreg r = init.sreg r := by
    intro r hr
    cases r with
    | cs => exact absurd rfl hr
    | es | ss | ds => rfl
  refine ⟨rfl, rfl, rfl, hgen, hseg, rfl, rfl, rfl, rfl, rfl, fun i => ?_, ?_⟩
  · have hch : (State.construct c init ram bios).pit.get i = Channel.reset (i != .c2) :=
      Pit.get_reset i
    simp [hch, Channel.reset]
  · simp [State.construct, State.resetWith, Pit.reset, Pic.reset]

/-! ## Reset -/

theorem ChannelOk.reset (gate : Bool) : ChannelOk (Channel.reset gate) :=
  ⟨nofun, nofun, rfl, nofun, nofun, nofun, nofun⟩

theorem PitOk.reset : PitOk Pit.reset := ⟨.reset true, .reset true, .reset false⟩

theorem PicOk.reset : PicOk Pic.reset := ⟨rfl, .inl rfl⟩

/-- The mask itself reads as a FLAGS word should. -/
theorem wordReserved_mask {c : Config} (h : c.wf = true) :
    WordReserved c.flagsAlwaysSet c.flagsAlwaysSet := by
  simpa [flagsRule] using wordReserved_flagsRule h 0

theorem Inv.resetWith {c : Config} (h : c.wf = true) : Inv (State.resetWith c) :=
  ⟨⟨⟨h, rfl, wordReserved_mask h⟩, PicOk.reset, PitOk.reset⟩, rfl, rfl⟩

/-- Settles O3: a well-formed mask is all that the reset state needs, and the default one is. -/
theorem resetMeetsInvariant : Obligations.ResetMeetsInvariant := by
  unfold Obligations.ResetMeetsInvariant
  exact ⟨Inv.resetWith (c := Config.default) (by decide), fun _ h => Inv.resetWith h⟩

end Sys2Proof.Machine
end

section
/-! The write rule of FLAGS and the halves of the byte registers (10_state.md sections 1 and 2). -/

namespace Sys2Proof.Machine

/-! ## The write rule of FLAGS (10_state.md R36, R40) -/

theorem getLsbD_flagsRule_of_set {set : Word} (v : Word) {n : Nat} (h : set.getLsbD n = true) :
    (flagsRule set v).getLsbD n = true := by
  simp [flagsRule, h]

theorem getLsbD_flagsRule_of_clear {c : Config} (hc : c.wf = true) (v : Word) {n : Nat}
    (h : flagsAlwaysClear.getLsbD n = true) :
    (flagsRule c.flagsAlwaysSet v).getLsbD n = false := by
  have hbit := congrArg (fun w : Word => w.getLsbD n) (flagsRule_clear hc v)
  simpa [BitVec.getLsbD_and, h] using hbit

/-- `setFlag` stores the old word with one bit replaced, through the write rule. -/
theorem State.flags_setFlag (s : State) (f : Flag) (b : Bool) :
    (s.setFlag f b).regs.flags = flagsRule s.cfg.flagsAlwaysSet
      ((s.regs.flags &&& ~~~BitVec.twoPow 16 f.pos) ||| (BitVec.ofNat 16 b.toNat <<< f.pos)) := by
  have hb : (if b then 1#16 else 0#16) = BitVec.ofNat 16 b.toNat := by cases b <;> rfl
  show flagsRule _ (putFlag _ f b s.regs.flags) = _
  rw [flagsRule_putFlag, putFlag, hb, BitVec.twoPow_eq]

/-- Settles O5: both writes go through the rule, which decides the reserved bits. -/
theorem flagsWriteRule : Obligations.FlagsWriteRule := by
  unfold Obligations.FlagsWriteRule
  intro s v f b hc
  refine ⟨rfl, s.flags_setFlag f b, fun n hn => ?_, fun n hn => ?_, fun g => ?_⟩
  · exact ⟨getLsbD_flagsRule_of_set _ hn, getLsbD_flagsRule_of_set _ hn⟩
  · have hclear : flagsAlwaysClear.getLsbD n = true := by
      rcases hn with rfl | rfl <;> decide
    exact ⟨getLsbD_flagsRule_of_clear hc _ hclear, getLsbD_flagsRule_of_clear hc _ hclear⟩
  · exact (getFlag_flagsRule_wf hc _ g).trans (getFlag_putFlag_wf hc _ g f b)

/-! ## The byte registers (10_state.md R31) -/

theorem Reg8.parent_ofCode (i : BitVec 3) :
    (Reg8.ofCode i).parent = .ofCode (if i.toNat < 4 then i else i - 4#3) := by
  revert i; decide

theorem Reg8.isHigh_ofCode (i : BitVec 3) : (Reg8.ofCode i).isHigh = !decide (i.toNat < 4) := by
  revert i; decide

/-- A byte write seen through the slots of the register file. -/
theorem Regs.slot_setR8 (g : Regs) (r : Reg8) (v : Byte) (q : Slot) :
    (g.setR8 r v).slot q =
      if q = .gen r.parent then
        if r.isHigh then wordOf (loByte (g.r16 r.parent)) v
        else wordOf v (hiByte (g.r16 r.parent))
      else g.slot q := by
  cases q with
  | gen q =>
    by_cases h : q = r.parent
    · subst h; simp [Regs.slot, Regs.r16_setR8]
    · simp [Regs.slot, Regs.r16_setR8, h]
  | seg q => simp [Regs.slot]
  | ip => simp [Regs.slot]
  | flags => simp [Regs.slot]

/-- Settles O6: the code names the pair and the half, and a byte write changes that half only. -/
theorem byteRegistersAreHalves : Obligations.ByteRegistersAreHalves := by
  unfold Obligations.ByteRegistersAreHalves
  intro g i v
  simp only [Regs.r8, Regs.slot_setR8, Reg8.parent_ofCode, Reg8.isHigh_ofCode, wordOf_eq_append,
    loByte_eq_extract, hiByte_eq_extract]
  by_cases hi : i.toNat < 4
  · simp [hi]
  · simp [hi]

end Sys2Proof.Machine
end

section
/-! The invariant along a run (10_state.md sections 2, 4, 5; 30_encoding.md R131; 60_exceptions.md
R540): every instruction, every execute cycle and every call of the host keeps it. -/

namespace Sys2Proof.Machine

/-! ## One instruction -/

/-- Every instruction answers a next state, and `Sound` passes through the shared operations that
its meaning is made of. -/
theorem Sound.exec {s : State} (h : Sound s) (i : Instr) :
    ∃ t, exec i s = .next t ∧ Sound t := by
  cases i with
  | addEbGb | addGbEb | addAlIb | addEbIb | orEbGb | orGbEb | orAlIb | orEbIb | adcEbGb
  | adcGbEb | adcAlIb | adcEbIb | sbbEbGb | sbbGbEb | sbbAlIb | sbbEbIb | andEbGb | andGbEb
  | andAlIb | andEbIb | subEbGb | subGbEb | subAlIb | subEbIb | xorEbGb | xorGbEb | xorAlIb
  | xorEbIb | cmpEbGb | cmpGbEb | cmpAlIb | cmpEbIb => exact ⟨_, rfl, (h.alu8 _ _ _ _).advance _⟩
  | addEwGw | addGwEw | addAxIw | addEwIw | addEwIbs | orEwGw | orGwEw | orAxIw | orEwIw
  | orEwIbs | adcEwGw | adcGwEw | adcAxIw | adcEwIw | adcEwIbs | sbbEwGw | sbbGwEw | sbbAxIw
  | sbbEwIw | sbbEwIbs | andEwGw | andGwEw | andAxIw | andEwIw | andEwIbs | subEwGw | subGwEw
  | subAxIw | subEwIw | subEwIbs | xorEwGw | xorGwEw | xorAxIw | xorEwIw | xorEwIbs | cmpEwGw
  | cmpGwEw | cmpAxIw | cmpEwIw | cmpEwIbs => exact ⟨_, rfl, (h.alu16 _ _ _ _).advance _⟩
  | testEbGb | testEwGw | testAlIb | testAxIw | testEbIb | testEwIw =>
    exact ⟨_, rfl, (h.test _ _).advance _⟩
  | incEb => exact ⟨_, rfl, (h.inc8 _).advance _⟩
  | incAx | incCx | incDx | incBx | incSp | incBp | incSi | incDi | incEw =>
    exact ⟨_, rfl, (h.inc16 _).advance _⟩
  | decEb => exact ⟨_, rfl, (h.dec8 _).advance _⟩
  | decAx | decCx | decDx | decBx | decSp | decBp | decSi | decDi | decEw =>
    exact ⟨_, rfl, (h.dec16 _).advance _⟩
  | negEb => exact ⟨_, rfl, (h.neg8 _).advance _⟩
  | negEw => exact ⟨_, rfl, (h.neg16 _).advance _⟩
  | rolEb1 | rolEbCl | rorEb1 | rorEbCl | rclEb1 | rclEbCl | rcrEb1 | rcrEbCl | shlEb1
  | shlEbCl | shrEb1 | shrEbCl | sarEb1 | sarEbCl => exact ⟨_, rfl, (h.shift8 _ _ _).advance _⟩
  | rolEw1 | rolEwCl | rorEw1 | rorEwCl | rclEw1 | rclEwCl | rcrEw1 | rcrEwCl | shlEw1
  | shlEwCl | shrEw1 | shrEwCl | sarEw1 | sarEwCl => exact ⟨_, rfl, (h.shift16 _ _ _).advance _⟩
  | notEb | movEbGb | movEbIb => exact ⟨_, rfl, (h.put8 _ _).advance _⟩
  | notEw | movEwGw | movEwSw | movEwIw => exact ⟨_, rfl, (h.put16 _ _).advance _⟩
  | movGbEb | movAlOb | movAlIb | movClIb | movDlIb | movBlIb | movAhIb | movChIb | movDhIb
  | movBhIb => exact ⟨_, rfl, (h.setR8 _ _).advance _⟩
  | movGwEw | movAxOw | movAxIw | movCxIw | movDxIw | movBxIw | movSpIw | movBpIw | movSiIw
  | movDiIw => exact ⟨_, rfl, (h.setR16 _ _).advance _⟩
  | movSwEw => exact ⟨_, rfl, (h.setSreg _ _).advance _⟩
  | movObAl => exact ⟨_, rfl, (h.writeMem8 _ _ _).advance _⟩
  | movOwAx => exact ⟨_, rfl, (h.writeMem16 _ _ _).advance _⟩
  | pushEs | pushCs | pushSs | pushDs | pushAx | pushCx | pushDx | pushBx | pushSp | pushBp
  | pushSi | pushDi | pushEw | pushf => exact ⟨_, rfl, (h.push _).advance _⟩
  | popAx | popCx | popDx | popBx | popSp | popBp | popSi | popDi =>
    exact ⟨_, rfl, (h.pop.setR16 _ _).advance _⟩
  | popEs | popSs | popDs => exact ⟨_, rfl, (h.pop.setSreg _ _).advance _⟩
  | popEw => exact ⟨_, rfl, (h.pop.put16 _ _).advance _⟩
  | popf => exact ⟨_, rfl, (h.pop.setFlags _).advance _⟩
  | inAlIb | inAlDx => exact ⟨_, rfl, ((h.ioByteRead _).setR8 _ _).advance _⟩
  | inAxIb | inAxDx => exact ⟨_, rfl, ((h.ioWordRead _).setR16 _ _).advance _⟩
  | outIbAl | outDxAl => exact ⟨_, rfl, (h.ioByteWrite _ _).advance _⟩
  | outIbAx | outDxAx => exact ⟨_, rfl, (h.ioWordWrite _ _).advance _⟩
  | cmc | clc | stc | cli | sti | cld | std => exact ⟨_, rfl, (h.setFlag _ _).advance _⟩
  | nop => exact ⟨_, rfl, h.advance _⟩
  | hlt => exact ⟨_, rfl, h⟩
  | esPrefix | csPrefix | ssPrefix | dsPrefix => exact ⟨_, rfl, h.takePrefix _⟩
  | joJb | jnoJb | jbJb | jnbJb | jzJb | jnzJb | jbeJb | jaJb | jsJb | jnsJb | jpJb | jnpJb
  | jlJb | jgeJb | jleJb | jgJb | jcxzJb => exact ⟨_, rfl, h.jumpIf _ _ _⟩
  | loopnzJb | loopzJb | loopJb => exact ⟨_, rfl, h.countCx.jumpIf _ _ _⟩
  | jmpJw | jmpJb | jmpEw => exact ⟨_, rfl, h.setIp _⟩
  | jmpAp => exact ⟨_, rfl, (h.setIp _).setSreg _ _⟩
  | callJw | callEw => exact ⟨_, rfl, (h.push _).setIp _⟩
  | callAp => exact ⟨_, rfl, (((h.push _).push _).setIp _).setSreg _ _⟩
  | ret => exact ⟨_, rfl, h.pop.setIp _⟩
  | retIw => exact ⟨_, rfl, (h.pop.setIp _).setR16 _ _⟩
  | retf => exact ⟨_, rfl, (h.pop.pop.setIp _).setSreg _ _⟩
  | retfIw => exact ⟨_, rfl, ((h.pop.pop.setIp _).setSreg _ _).setR16 _ _⟩
  | int3 | intIb => exact ⟨_, rfl, h.interrupt _ _⟩
  | into => exact ⟨_, rfl, by split; exacts [h.interrupt _ _, h.advance _]⟩
  | iret => exact ⟨_, rfl, h.interruptReturn⟩

/-! ## One execute cycle -/

/-- A cycle that starts in a sound state ends idle and sound, whatever segment overrides were pending
at its start or read on the way (30_encoding.md R131). -/
theorem Sound.runCycle {n : Nat} {s t : State} (hs : Sound s) (h : runCycle n s = .next t) :
    Inv t := by
  induction n generalizing s with
  | zero => cases h
  | succ n ih =>
    rcases runCycle_cases h with ⟨r, -, hrest⟩ | ⟨f, rfl⟩ | ⟨i, -, u, -, -, -, hu, rfl⟩
    · exact ih (hs.takePrefix r) hrest
    · exact ⟨hs.idleCycle.emulationFault f, rfl, rfl⟩
    · obtain ⟨v, hv, hsound⟩ := (hs.trace i).exec i
      cases hv.symm.trans hu
      exact ⟨hsound.idleCycle, rfl, rfl⟩

theorem Inv.execute {s t : State} (hs : Inv s) (h : execute s = .next t) : Inv t :=
  hs.1.idleCycle.runCycle (execute_next h).2

/-! ## The calls of the host (60_exceptions.md R540) -/

theorem Inv.interrupt {s : State} (h : Inv s) (n : Byte) (ret : Word) :
    Inv (s.interrupt n ret) := by
  obtain ⟨hs, hovr, hlen⟩ := h
  exact ⟨hs.interrupt n ret, by simpa using hovr, by simpa using hlen⟩

theorem Inv.withPit {s : State} (h : Inv s) {p : Pit} (hp : PitOk s.pit → PitOk p) :
    Inv { s with pit := p } := by
  obtain ⟨⟨hcpu, hpic, hpit⟩, hidle⟩ := h
  exact ⟨⟨hcpu, hpic, hp hpit⟩, hidle⟩

theorem Inv.withPic {s : State} (h : Inv s) {p : Pic} (hp : PicOk s.pic → PicOk p) :
    Inv { s with pic := p } := by
  obtain ⟨⟨hcpu, hpic, hpit⟩, hidle⟩ := h
  exact ⟨⟨hcpu, hp hpic, hpit⟩, hidle⟩

theorem Inv.deliverInterrupt {s : State} (h : Inv s) : Inv s.deliverInterrupt := by
  have hack := h.withPic PicOk.acknowledge
  unfold State.deliverInterrupt
  split_ifs
  · exact h
  · exact h
  · exact h
  · split
    · next v p hp =>
      rw [hp] at hack
      exact hack.interrupt v _
    · exact h

theorem Inv.hostGate {s : State} (h : Inv s) (g : HostGate) (level : Nat) :
    Inv (s.hostGate g level) := by
  cases g with
  | gate0 => exact h.withPit fun hp => hp.set .c0 ((hp.get .c0).setGate level)
  | gate1 => exact h.withPit fun hp => hp.set .c1 ((hp.get .c1).setGate level)

theorem Inv.hostAcknowledge {s : State} (h : Inv s) : Inv s.hostAcknowledge :=
  h.withPic PicOk.acknowledge

theorem Inv.hostCall {c : HostCall} {s t : State} (hs : Inv s) (h : hostCall c s = .next t) :
    Inv t := by
  cases c with
  | execute => exact hs.execute h
  | tick => cases h; exact hs.withPit PitOk.tick
  | deliverInterrupt => cases h; exact hs.deliverInterrupt
  | setInterrupt irq => cases h; exact hs.withPic fun hp => hp.setInterrupt irq
  | acknowledgeInterrupt => cases h; exact hs.hostAcknowledge
  | setGate g level => cases h; exact hs.hostGate g level

/-! ## One step -/

/-- Settles O4: a step is one call of the host, and each keeps the invariant. -/
theorem stepKeepsInvariant : Obligations.StepKeepsInvariant := by
  unfold Obligations.StepKeepsInvariant
  intro s t hs h
  cases hsched : s.schedule with
  | nil =>
    rw [step_execute hsched] at h
    exact hs.execute h
  | cons c rest =>
    rw [step_hostCall hsched] at h
    exact Inv.hostCall (s := { s with schedule := rest }) hs h

end Sys2Proof.Machine
end

section
/-! Linear addresses, the router and the memory accesses of the host and of the CPU
(20_memory.md sections 1 to 3). -/

namespace Sys2Proof.Machine

/-! ## Linear addresses (20_memory.md R84, R88) -/

theorem linear_of_wrap {c : Config} (h : c.a20Wrap = true) (seg off : Word) :
    linear c seg off = (seg.toNat * 16 + off.toNat) % 2 ^ 20 := by simp [linear, h]

theorem linear_of_noWrap {c : Config} (h : c.a20Wrap = false) (seg off : Word) :
    linear c seg off = seg.toNat * 16 + off.toNat := by simp [linear, h]

/-- 0x10FFEF is FFFF:FFFF, reached without the wrap only. -/
theorem linear_le (c : Config) (seg off : Word) : linear c seg off ≤ 0x10FFEF := by
  have hseg := seg.isLt
  have hoff := off.isLt
  cases h : c.a20Wrap with
  | true => rw [linear_of_wrap h]; omega
  | false => rw [linear_of_noWrap h]; omega

/-! ## The router (20_memory.md R86, R87) -/

section Regions

variable {c : Config} {a : Nat}

theorem route_bios (h : c.biosBase ≤ a ∧ a < c.biosBase + c.biosSize) :
    route c a = some .bios := by simp [route, h]

theorem route_ram (hb : ¬(c.biosBase ≤ a ∧ a < c.biosBase + c.biosSize)) (hr : a < c.ramSize) :
    route c a = some .ram := by simp [route, hb, hr]

theorem route_unmapped (hb : ¬(c.biosBase ≤ a ∧ a < c.biosBase + c.biosSize))
    (hr : ¬a < c.ramSize) : route c a = none := by simp [route, hb, hr]

theorem writable_of_bios (h : route c a = some .bios) : writable c a = c.biosWritable := by
  simp [writable, h]

theorem writable_of_ram (h : route c a = some .ram) : writable c a = true := by
  simp [writable, h]

theorem writable_of_unmapped (h : route c a = none) : writable c a = false := by
  simp [writable, h]

end Regions

/-! ## Byte and word accesses (20_memory.md R88 to R90) -/

theorem State.memRead_of_unmapped {s : State} {a : Nat} (h : route s.cfg a = none) :
    s.memRead a = Config.unmappedRead := by simp [State.memRead, h]

/-- No store changes a byte at another address. -/
theorem State.memRead_memWrite_ne (s : State) {a b : Nat} (v : Byte) (h : b ≠ a) :
    (s.memWrite a v).memRead b = s.memRead b := by
  rw [State.memWrite_eq]
  split
  · simp [State.memRead, Memory.read_write_ne _ _ h]
  · rfl

/-- A store where none has an effect does nothing at all (20_memory.md R88, R90). -/
theorem State.memWrite_of_unwritable {s : State} {a : Nat} (h : writable s.cfg a = false)
    (v : Byte) : s.memWrite a v = s := by simp [State.memWrite, h]

/-- Where a store has an effect it is read back. -/
theorem State.memRead_memWrite_same {s : State} (hm : s.mem.wf = true) {a : Nat}
    (h : writable s.cfg a = true) (v : Byte) : (s.memWrite a v).memRead a = v := by
  simp [State.memRead_memWrite hm, h]

theorem State.memReadWord_eq (s : State) (a : Nat) :
    s.memReadWord a = s.memRead (nextLinear s.cfg a) ++ s.memRead a :=
  wordOf_eq_append _ _

theorem State.memWriteWord_eq (s : State) (a : Nat) (w : Word) :
    s.memWriteWord a w = (s.memWrite a (w.extractLsb' 0 8)).memWrite (nextLinear s.cfg a)
      (w.extractLsb' 8 8) := by
  rw [State.memWriteWord, loByte_eq_extract, hiByte_eq_extract]

/-- Settles O7: the region that owns the address decides what a store does there. -/
theorem memoryByteAccess : Obligations.MemoryByteAccess := by
  unfold Obligations.MemoryByteAccess
  refine ⟨fun c seg off =>
    ⟨fun h => linear_of_wrap h seg off, fun h => linear_of_noWrap h seg off, linear_le c seg off⟩,
    fun s a v hm => ?_⟩
  refine ⟨s.regs_memWrite a v, by simp [Keeps], s.pit_memWrite a v, s.pic_memWrite a v,
    State.wf_memWrite hm a v, fun b hb => s.memRead_memWrite_ne v hb, fun hb hr => ?unmapped,
    fun hb hw => ?readOnly, fun hb hw => ?bios, fun hb hr => ?ram,
    fun w => ⟨s.memReadWord_eq a, s.memWriteWord_eq a w⟩⟩
  case unmapped =>
    have hroute := route_unmapped hb hr
    rw [State.memWrite_of_unwritable (writable_of_unmapped hroute)]
    exact ⟨State.memRead_of_unmapped hroute, rfl⟩
  case readOnly =>
    rw [State.memWrite_of_unwritable ((writable_of_bios (route_bios hb)).trans hw)]
  case bios => exact State.memRead_memWrite_same hm ((writable_of_bios (route_bios hb)).trans hw) v
  case ram => exact State.memRead_memWrite_same hm (writable_of_ram (route_ram hb hr)) v

/-! ## Words in a segment (20_memory.md R89) -/

/-- The two bytes of a word read, the high one first. -/
theorem State.readMem16_eq (s : State) (seg off : Word) :
    s.readMem16 seg off =
      s.memRead (linear s.cfg seg (off + 1#16)) ++ s.memRead (linear s.cfg seg off) :=
  wordOf_eq_append _ _

section WordStore

variable {s : State} {seg off : Word} (v : Word)

theorem State.memRead_writeMem16_ne (hm : s.mem.wf = true) {a : Nat}
    (hlo : a ≠ linear s.cfg seg off) (hhi : a ≠ linear s.cfg seg (off + 1#16)) :
    (s.writeMem16 seg off v).memRead a = s.memRead a := by
  simp [State.memRead_writeMem16 hm, hlo, hhi]

theorem State.memRead_writeMem16_low (hm : s.mem.wf = true)
    (hw : writable s.cfg (linear s.cfg seg off) = true) :
    (s.writeMem16 seg off v).memRead (linear s.cfg seg off) = v.extractLsb' 0 8 := by
  simp [State.memRead_writeMem16 hm, hw, loByte_eq_extract]

theorem State.memRead_writeMem16_high (hm : s.mem.wf = true)
    (hw : writable s.cfg (linear s.cfg seg (off + 1#16)) = true) :
    (s.writeMem16 seg off v).memRead (linear s.cfg seg (off + 1#16)) = v.extractLsb' 8 8 := by
  simp [State.memRead_writeMem16 hm, hw, hiByte_eq_extract, linear_succ_ne]

/-- A word stored where both of its bytes can be written is read back. -/
theorem State.readMem16_writeMem16_same (hm : s.mem.wf = true)
    (hlo : writable s.cfg (linear s.cfg seg off) = true)
    (hhi : writable s.cfg (linear s.cfg seg (off + 1#16)) = true) :
    (s.writeMem16 seg off v).readMem16 seg off = v := by
  rw [State.readMem16_eq, State.cfg_writeMem16, State.memRead_writeMem16_low v hm hlo,
    State.memRead_writeMem16_high v hm hhi, ← loByte_eq_extract, ← hiByte_eq_extract,
    ← wordOf_eq_append, wordOf_lo_hi]

end WordStore

/-- Settles O8: the offset modulo 2^16 is the offset plus one as a word. -/
theorem memoryWordAccess : Obligations.MemoryWordAccess := by
  unfold Obligations.MemoryWordAccess
  intro s seg off v hm
  have hnext : BitVec.ofNat 16 (off.toNat + 1) = off + 1#16 := by simp [BitVec.ofNat_add]
  rw [hnext]
  refine ⟨?_, ?_, fun _ hlo hhi => State.memRead_writeMem16_ne v hm hlo hhi,
    State.memRead_writeMem16_low v hm, State.memRead_writeMem16_high v hm,
    State.readMem16_writeMem16_same v hm⟩
  · rw [← loByte_eq_extract]; exact loByte_wordOf _ _
  · rw [← hiByte_eq_extract]; exact hiByte_wordOf _ _

end Sys2Proof.Machine
end

section
/-! Which bytes a step can change: the stores of every instruction and of every call of the host go
through the router (20_memory.md R88, R90). -/

namespace Sys2Proof.Machine

/-- From `s` to `t` no byte that cannot be written changes what it reads as, and the parameters,
which say where those bytes are, stay. -/
def UnwritableKept (s t : State) : Prop :=
  t.cfg = s.cfg ∧ ∀ a, writable s.cfg a = false → t.memRead a = s.memRead a

namespace UnwritableKept

theorem refl (s : State) : UnwritableKept s s := ⟨rfl, fun _ _ => rfl⟩

variable {s t : State}

/-- What leaves memory alone keeps it. -/
theorem of_same {u : State} (h : UnwritableKept s t) (hc : u.cfg = t.cfg) (hm : u.mem = t.mem) :
    UnwritableKept s u :=
  ⟨hc.trans h.1, fun a ha => by rw [State.memRead_congr hm hc]; exact h.2 a ha⟩

theorem setIp (h : UnwritableKept s t) (v : Word) : UnwritableKept s (t.setIp v) :=
  h.of_same rfl rfl

theorem advance (h : UnwritableKept s t) (i : Instr) : UnwritableKept s (t.advance i) :=
  h.of_same rfl rfl

theorem setFlags (h : UnwritableKept s t) (v : Word) : UnwritableKept s (t.setFlags v) :=
  h.of_same rfl rfl

theorem setFlag (h : UnwritableKept s t) (f : Flag) (b : Bool) : UnwritableKept s (t.setFlag f b) :=
  h.setFlags _

theorem setSreg (h : UnwritableKept s t) (r : SReg) (v : Word) : UnwritableKept s (t.setSreg r v) :=
  h.of_same rfl rfl

theorem pop (h : UnwritableKept s t) : UnwritableKept s t.pop.2 := h.of_same rfl rfl

/-! ## Stores -/

/-- The one operation of the CPU that writes memory: at another address it changes nothing, and at
an address that cannot be written it has no effect. -/
theorem memWrite (h : UnwritableKept s t) (a : Nat) (v : Byte) :
    UnwritableKept s (t.memWrite a v) := by
  obtain ⟨hcfg, hread⟩ := h
  refine ⟨(t.cfg_memWrite a v).trans hcfg, fun b hb => ?_⟩
  rw [← hread b hb]
  by_cases hba : b = a
  · subst hba
    rw [State.memWrite_of_unwritable (hcfg ▸ hb)]
  · exact t.memRead_memWrite_ne v hba

theorem writeMem16 (h : UnwritableKept s t) (seg off v : Word) :
    UnwritableKept s (t.writeMem16 seg off v) := (h.memWrite _ _).memWrite _ _

theorem put8 (h : UnwritableKept s t) (l : Loc8) (v : Byte) : UnwritableKept s (t.put8 l v) := by
  cases l with
  | reg r => exact h.of_same rfl rfl
  | mem seg off => exact h.memWrite _ v

theorem put16 (h : UnwritableKept s t) (l : Loc16) (v : Word) : UnwritableKept s (t.put16 l v) := by
  cases l with
  | reg r => exact h.of_same rfl rfl
  | mem seg off => exact h.writeMem16 seg off v

theorem push (h : UnwritableKept s t) (v : Word) : UnwritableKept s (t.push v) :=
  writeMem16 (t := t.setR16 _ _) (h.of_same rfl rfl) _ _ v

/-! ## Operations made of stores -/

theorem alu8 (h : UnwritableKept s t) (k : AluOp) (l : Loc8) (a b : Byte) :
    UnwritableKept s (t.alu8 k l a b) := by
  unfold State.alu8
  cases aluResult k a b (t.flag .cf) with
  | some r => exact (h.put8 l r).of_same rfl rfl
  | none => exact h.of_same rfl rfl

theorem alu16 (h : UnwritableKept s t) (k : AluOp) (l : Loc16) (a b : Word) :
    UnwritableKept s (t.alu16 k l a b) := by
  unfold State.alu16
  cases aluResult k a b (t.flag .cf) with
  | some r => exact (h.put16 l r).of_same rfl rfl
  | none => exact h.of_same rfl rfl

theorem shift8 (h : UnwritableKept s t) (k : ShiftOp) (n : Nat) (e : Ea8) :
    UnwritableKept s (t.shift8 k n e) := by
  by_cases hn : n = 0
  · subst hn; rwa [State.shift8_zero]
  · simp only [State.shift8, hn, if_false]
    exact (h.put8 _ _).of_same rfl rfl

theorem shift16 (h : UnwritableKept s t) (k : ShiftOp) (n : Nat) (e : Ea16) :
    UnwritableKept s (t.shift16 k n e) := by
  by_cases hn : n = 0
  · subst hn; rwa [State.shift16_zero]
  · simp only [State.shift16, hn, if_false]
    exact (h.put16 _ _).of_same rfl rfl

/-- The three pushes of an interrupt (60_exceptions.md R410). -/
theorem interrupt (h : UnwritableKept s t) (n : Byte) (ret : Word) :
    UnwritableKept s (t.interrupt n ret) :=
  ((((((h.push _).setFlag _ _).setFlag _ _).push _).push _).setIp _).setSreg _ _

/-! ## Ports -/

theorem ioByteRead (h : UnwritableKept s t) (p : Word) : UnwritableKept s (t.ioByteRead p).2 :=
  h.of_same (t.cfg_ioByteRead p) (t.mem_ioByteRead p)

theorem ioWordRead (h : UnwritableKept s t) (p : Word) : UnwritableKept s (t.ioWordRead p).2 :=
  h.of_same (t.cfg_ioWordRead p) (t.mem_ioWordRead p)

theorem ioByteWrite (h : UnwritableKept s t) (p : Word) (v : Byte) :
    UnwritableKept s (t.ioByteWrite p v) :=
  h.of_same (t.cfg_ioByteWrite p v) (t.mem_ioByteWrite p v)

theorem ioWordWrite (h : UnwritableKept s t) (p v : Word) :
    UnwritableKept s (t.ioWordWrite p v) :=
  h.of_same (t.cfg_ioWordWrite p v) (t.mem_ioWordWrite p v)

/-! ## One instruction -/

/-- Every instruction answers a next state, and what it stores it stores through the operations
above; the last case is the instructions that write neither memory nor a port. -/
theorem exec (h : UnwritableKept s t) (i : Instr) :
    ∃ u, exec i t = .next u ∧ UnwritableKept s u := by
  cases i with
  | addEbGb | addGbEb | addAlIb | addEbIb | orEbGb | orGbEb | orAlIb | orEbIb | adcEbGb
  | adcGbEb | adcAlIb | adcEbIb | sbbEbGb | sbbGbEb | sbbAlIb | sbbEbIb | andEbGb | andGbEb
  | andAlIb | andEbIb | subEbGb | subGbEb | subAlIb | subEbIb | xorEbGb | xorGbEb | xorAlIb
  | xorEbIb | cmpEbGb | cmpGbEb | cmpAlIb | cmpEbIb =>
    exact ⟨_, rfl, (h.alu8 _ _ _ _).advance _⟩
  | addEwGw | addGwEw | addAxIw | addEwIw | addEwIbs | orEwGw | orGwEw | orAxIw | orEwIw
  | orEwIbs | adcEwGw | adcGwEw | adcAxIw | adcEwIw | adcEwIbs | sbbEwGw | sbbGwEw | sbbAxIw
  | sbbEwIw | sbbEwIbs | andEwGw | andGwEw | andAxIw | andEwIw | andEwIbs | subEwGw | subGwEw
  | subAxIw | subEwIw | subEwIbs | xorEwGw | xorGwEw | xorAxIw | xorEwIw | xorEwIbs | cmpEwGw
  | cmpGwEw | cmpAxIw | cmpEwIw | cmpEwIbs => exact ⟨_, rfl, (h.alu16 _ _ _ _).advance _⟩
  | rolEb1 | rolEbCl | rorEb1 | rorEbCl | rclEb1 | rclEbCl | rcrEb1 | rcrEbCl | shlEb1
  | shlEbCl | shrEb1 | shrEbCl | sarEb1 | sarEbCl =>
    exact ⟨_, rfl, (h.shift8 _ _ _).advance _⟩
  | rolEw1 | rolEwCl | rorEw1 | rorEwCl | rclEw1 | rclEwCl | rcrEw1 | rcrEwCl | shlEw1
  | shlEwCl | shrEw1 | shrEwCl | sarEw1 | sarEwCl =>
    exact ⟨_, rfl, (h.shift16 _ _ _).advance _⟩
  | incEb | decEb | negEb => exact ⟨_, rfl, ((h.put8 _ _).setFlags _).advance _⟩
  | incAx | incCx | incDx | incBx | incSp | incBp | incSi | incDi | incEw
  | decAx | decCx | decDx | decBx | decSp | decBp | decSi | decDi | decEw | negEw =>
    exact ⟨_, rfl, ((h.put16 _ _).setFlags _).advance _⟩
  | notEb | movEbGb | movEbIb => exact ⟨_, rfl, (h.put8 _ _).advance _⟩
  | notEw | movEwGw | movEwSw | movEwIw => exact ⟨_, rfl, (h.put16 _ _).advance _⟩
  | popEw => exact ⟨_, rfl, (h.pop.put16 _ _).advance _⟩
  | movObAl => exact ⟨_, rfl, (h.memWrite _ _).advance _⟩
  | movOwAx => exact ⟨_, rfl, (h.writeMem16 _ _ _).advance _⟩
  | pushEs | pushCs | pushSs | pushDs | pushAx | pushCx | pushDx | pushBx | pushSp | pushBp
  | pushSi | pushDi | pushEw | pushf => exact ⟨_, rfl, (h.push _).advance _⟩
  | callJw | callEw => exact ⟨_, rfl, (h.push _).setIp _⟩
  | callAp => exact ⟨_, rfl, (((h.push _).push _).setIp _).setSreg _ _⟩
  | int3 | intIb => exact ⟨_, rfl, h.interrupt _ _⟩
  | into => exact ⟨_, rfl, by split; exacts [h.interrupt _ _, h.advance _]⟩
  | inAlIb | inAlDx => exact ⟨_, rfl, (h.ioByteRead _).of_same rfl rfl⟩
  | inAxIb | inAxDx => exact ⟨_, rfl, (h.ioWordRead _).of_same rfl rfl⟩
  | outIbAl | outDxAl => exact ⟨_, rfl, (h.ioByteWrite _ _).advance _⟩
  | outIbAx | outDxAx => exact ⟨_, rfl, (h.ioWordWrite _ _).advance _⟩
  | _ => exact ⟨_, rfl, h.of_same (by simp) (by simp)⟩

/-! ## One execute cycle and one step -/

theorem execute {u : State} (h : UnwritableKept s t) (hx : execute t = .next u) :
    UnwritableKept s u := by
  have hidle : UnwritableKept s t.idleCycle := h.of_same rfl rfl
  refine runCycle_induction (P := UnwritableKept s) (fun v r hv => hv.of_same rfl rfl)
    (fun v f hv => hv.of_same rfl rfl) (fun v i rest w hv _ hw => ?_) hidle (execute_next hx).2
  have htrace : UnwritableKept s (v.trace i) := hv.of_same rfl rfl
  obtain ⟨w', hw', hkept⟩ := htrace.exec i
  cases hw'.symm.trans hw
  exact hkept.of_same rfl rfl

theorem hostCall {c : HostCall} {u : State} (h : UnwritableKept s t) (hx : hostCall c t = .next u) :
    UnwritableKept s u := by
  rcases hostCall_cases hx with hx | rfl | ⟨p, rfl⟩ | ⟨p, rfl⟩ | rfl | ⟨v, -, rfl⟩
  · exact h.execute hx
  · exact h
  · exact h.of_same rfl rfl
  · exact h.of_same rfl rfl
  · exact h.of_same rfl rfl
  · have hack : UnwritableKept s { t with pic := t.pic.acknowledge.2 } := h.of_same rfl rfl
    exact hack.interrupt v _

theorem step (h : step s = .next t) : UnwritableKept s t := by
  cases hsched : s.schedule with
  | nil =>
    rw [step_execute hsched] at h
    exact (refl s).execute h
  | cons c rest =>
    rw [step_hostCall hsched] at h
    have hcall : UnwritableKept s { s with schedule := rest } := (refl s).of_same rfl rfl
    exact hcall.hostCall h

end UnwritableKept

/-- Settles O23: every store of a step is a byte store through the router. -/
theorem unwritableBytesNeverChange : Obligations.UnwritableBytesNeverChange := by
  unfold Obligations.UnwritableBytesNeverChange
  intro s t a h ha
  exact (UnwritableKept.step h).2 a ha

end Sys2Proof.Machine
end

section
/-! The segment of a memory operand (20_memory.md R82) and the routing of the ports (20_memory.md
R101 to R103). -/

namespace Sys2Proof.Machine

/-! ## Operand segments (20_memory.md R82) -/

theorem State.memSegment_override {s : State} {r : SReg} (h : s.segOvr = some r) (m : MemOp) :
    s.memSegment m = s.regs.sreg r := by simp [State.memSegment, h]

theorem State.memSegment_default {s : State} (h : s.segOvr = none) (m : MemOp) :
    s.memSegment m =
      if s.cfg.bpUsesSs = true ∧ m.usesBp = true then s.regs.ss else s.regs.ds := by
  simp [State.memSegment, h, Regs.sreg]

theorem AddrBase.usesBp_iff (b : AddrBase) :
    b.usesBp = true ↔ b = .bpsi ∨ b = .bpdi ∨ b = .bp := by
  cases b <;> simp [AddrBase.usesBp]

/-- Settles O16: a direct offset is a mode without BP. -/
theorem operandSegments : Obligations.OperandSegments := by
  unfold Obligations.OperandSegments
  intro s m
  refine ⟨fun r h => ⟨State.memSegment_override h m, State.memSegment_override h _⟩,
    fun h => ⟨?_, fun hss => ?_, fun hss => ?_⟩⟩
  · simp [State.offsetSegment, State.memSegment_default h, MemOp.usesBp]
  · simp [State.memSegment_default h, hss]
  · cases m with
    | direct off => simp [State.memSegment_default h, MemOp.usesBp]
    | based b d => simp [State.memSegment_default h, hss, MemOp.usesBp, AddrBase.usesBp_iff]

/-! ## Ports (20_memory.md R101 to R103) -/

/-- The ports 0x50 to 0x5F belong to whom the timer's four ports belong (20_memory.md R102). -/
theorem portTarget_aliased {p : Word} (hlo : 0x50 ≤ p.toNat) (hhi : p.toNat ≤ 0x5F) :
    portTarget p = portTarget (0x40#16 + (p &&& 3#16)) := by
  have hand : (p &&& 3#16).toNat = p.toNat % 4 := Nat.and_two_pow_sub_one_eq_mod p.toNat 2
  have hbase : (0x40#16 + (p &&& 3#16)).toNat = 0x40 + p.toNat % 4 := by
    rw [BitVec.toNat_add, hand, BitVec.toNat_ofNat]; omega
  have htimer : portTarget (0x40#16 + (p &&& 3#16)) = pitPort (p.toNat % 4) := by
    simp only [portTarget, hbase]
    rw [if_neg (by omega), if_neg (by omega), if_pos (by omega), Nat.add_sub_cancel_left]
  rw [htimer]
  unfold portTarget
  rw [if_neg (by omega), if_neg (by omega), if_neg (by omega), if_pos ⟨hlo, hhi⟩]

theorem portTarget_unrouted {p : Word} (h20 : p ≠ 0x20#16) (h21 : p ≠ 0x21#16)
    (htimer : ¬(0x40 ≤ p.toNat ∧ p.toNat ≤ 0x43)) (halias : ¬(0x50 ≤ p.toNat ∧ p.toNat ≤ 0x5F))
    (h61 : p ≠ 0x61#16) : portTarget p = .unrouted := by
  unfold portTarget
  rw [if_neg (by bv_omega), if_neg (by bv_omega), if_neg htimer, if_neg halias,
    if_neg (by bv_omega)]

theorem State.ioByteRead_congr (s : State) {p q : Word} (h : portTarget p = portTarget q) :
    s.ioByteRead p = s.ioByteRead q := by simp only [State.ioByteRead, h]

theorem State.ioByteWrite_congr (s : State) {p q : Word} (h : portTarget p = portTarget q)
    (v : Byte) : s.ioByteWrite p v = s.ioByteWrite q v := by simp only [State.ioByteWrite, h]

theorem State.ioByteRead_unrouted (s : State) {p : Word} (h : portTarget p = .unrouted) :
    s.ioByteRead p = (Config.undefPortRead, s) := by simp only [State.ioByteRead, h]

theorem State.ioByteWrite_unrouted (s : State) {p : Word} (h : portTarget p = .unrouted)
    (v : Byte) : s.ioByteWrite p v = s := by simp only [State.ioByteWrite, h]

theorem Pic.readCommand_eq (p : Pic) :
    p.readCommand = if p.readSelect = .irr then p.irr else p.isr := by
  unfold Pic.readCommand
  cases p.readSelect <;> rfl

/-- Bit 5 of a read of port 0x61 is channel 2's output (60_exceptions.md R530). -/
theorem Pit.read61_eq (p : Pit) :
    p.read61 = (p.p61 &&& ~~~0x20#8) ||| (BitVec.ofNat 8 p.ch2.out.toNat <<< 5) := by
  unfold Pit.read61
  cases p.ch2.out <;> rfl

theorem Channel.putGate_eq_setGate (c : Channel) (level : Bool) :
    c.putGate level = c.setGate level.toNat := by cases level <;> rfl

theorem Pit.write61_eq (p : Pit) (v : Byte) :
    p.write61 v = { p with p61 := v, ch2 := p.ch2.setGate (v.getLsbD 0).toNat } := by
  rw [Pit.write61, Channel.putGate_eq_setGate]

/-- Settles O32: port by port, then the ports of R102 and the ports that nothing owns. -/
theorem portRouting : Obligations.PortRouting := by
  unfold Obligations.PortRouting
  intro s v
  refine ⟨?picStatus, rfl, rfl, rfl, rfl, rfl, rfl, rfl, rfl, rfl, rfl, rfl, ?read61, ?write61,
    fun p hlo hhi => ?aliased, fun p h20 h21 htimer halias h61 => ?unrouted⟩
  case picStatus => rw [← Pic.readCommand_eq]; rfl
  case read61 => rw [← Pit.read61_eq]; rfl
  case write61 => rw [← Pit.write61_eq]; rfl
  case aliased =>
    have htarget := portTarget_aliased hlo hhi
    exact ⟨s.ioByteRead_congr htarget, s.ioByteWrite_congr htarget v⟩
  case unrouted =>
    have htarget := portTarget_unrouted h20 h21 htimer halias h61
    exact ⟨s.ioByteRead_unrouted htarget, s.ioByteWrite_unrouted htarget v⟩

end Sys2Proof.Machine
end

section
/-! Decoding and encoding undo each other (30_encoding.md R184, R186). -/

namespace Sys2Proof

/-! ## Decoding an encoding (30_encoding.md R186) -/

/-- The reg field of a group row names its operation, and an immediate follows the displacement: the
row that `encode` wrote is the row that is read. -/
theorem decode_encode {i : Instr} (h : i.wf = true) (rest : List Byte) :
    decode (encode i ++ rest) = .ok (i, rest) := by
  cases i with
  | addEbGb | orEbGb | adcEbGb | sbbEbGb | andEbGb | subEbGb | xorEbGb | cmpEbGb | testEbGb
  | movEbGb => exact modrmEbGb_bytes h _ _ _
  | addEwGw | orEwGw | adcEwGw | sbbEwGw | andEwGw | subEwGw | xorEwGw | cmpEwGw | testEwGw
  | movEwGw => exact modrmEwGw_bytes h _ _ _
  | addGbEb | orGbEb | adcGbEb | sbbGbEb | andGbEb | subGbEb | xorGbEb | cmpGbEb | movGbEb =>
    exact modrmGbEb_bytes h _ _ _
  | addGwEw | orGwEw | adcGwEw | sbbGwEw | andGwEw | subGwEw | xorGwEw | cmpGwEw | movGwEw =>
    exact modrmGwEw_bytes h _ _ _
  | movEwSw => exact modrmEwSw_bytes h _ _ _ _
  | movSwEw =>
    obtain ⟨hs, he⟩ := Bool.and_eq_true_iff.mp h
    exact modrmSwEw_bytes he _ _ hs _
  | addEbIb | orEbIb | adcEbIb | sbbEbIb | andEbIb | subEbIb | xorEbIb | cmpEbIb | movEbIb =>
    rw [encode, List.cons_append, List.append_assoc]
    exact groupEbIb_bytes h rfl _ _
  | addEwIw | orEwIw | adcEwIw | sbbEwIw | andEwIw | subEwIw | xorEwIw | cmpEwIw | movEwIw =>
    rw [encode, List.cons_append, List.append_assoc]
    exact groupEwIw_bytes h rfl _ _
  | addEwIbs | orEwIbs | adcEwIbs | sbbEwIbs | andEwIbs | subEwIbs | xorEwIbs | cmpEwIbs =>
    rw [encode, List.cons_append, List.append_assoc]
    exact groupEwIbs_bytes h rfl _ _
  | testEbIb =>
    rw [encode, List.cons_append, List.append_assoc]
    exact groupEbOptIb_imm h rfl _ _
  | testEwIw =>
    rw [encode, List.cons_append, List.append_assoc]
    exact groupEwOptIw_imm h rfl _ _
  | notEb | negEb => exact groupEbOptIb_bytes h rfl _
  | notEw | negEw => exact groupEwOptIw_bytes h rfl _
  | rolEb1 | rorEb1 | rclEb1 | rcrEb1 | shlEb1 | shrEb1 | sarEb1 | rolEbCl | rorEbCl | rclEbCl
  | rcrEbCl | shlEbCl | shrEbCl | sarEbCl | incEb | decEb => exact groupEb_bytes h rfl _
  | rolEw1 | rorEw1 | rclEw1 | rcrEw1 | shlEw1 | shrEw1 | sarEw1 | rolEwCl | rorEwCl | rclEwCl
  | rcrEwCl | shlEwCl | shrEwCl | sarEwCl | popEw | incEw | decEw | callEw | jmpEw | pushEw =>
    exact groupEw_bytes h rfl _
  | callAp | jmpAp =>
    rw [encode, List.cons_append, List.append_assoc]
    exact fieldFar_bytes _ _ _ _
  | addAxIw | orAxIw | adcAxIw | sbbAxIw | andAxIw | subAxIw | xorAxIw | cmpAxIw | testAxIw
  | movAlOb | movAxOw | movObAl | movOwAx | movAxIw | movCxIw | movDxIw | movBxIw | movSpIw
  | movBpIw | movSiIw | movDiIw | retIw | retfIw | callJw | jmpJw => exact fieldWord_bytes _ _ _
  | addAlIb | orAlIb | adcAlIb | sbbAlIb | andAlIb | subAlIb | xorAlIb | cmpAlIb | testAlIb
  | movAlIb | movClIb | movDlIb | movBlIb | movAhIb | movChIb | movDhIb | movBhIb | intIb | inAlIb
  | inAxIb | outIbAl | outIbAx | joJb | jnoJb | jbJb | jnbJb | jzJb | jnzJb | jbeJb | jaJb | jsJb
  | jnsJb | jpJb | jnpJb | jlJb | jgeJb | jleJb | jgJb | loopnzJb | loopzJb | loopJb | jcxzJb
  | jmpJb => exact fieldByte_cons _ _ _
  | _ => rfl

/-- Settles O10: constructor by constructor, each by the way its row is read. -/
theorem decodeOfEncode : Obligations.DecodeOfEncode := by
  unfold Obligations.DecodeOfEncode
  exact fun _ rest h => decode_encode h rest

end Sys2Proof
end

section
/-! Every opcode's row by its kind, and what follows from the kind alone: what the decoder consumed
is the encoding of what it read (30_encoding.md R184), and all that it can refuse (R181, R182,
R185). -/

namespace Sys2Proof

/-! ## The kinds of row (30_encoding.md R180) -/

/-- The row of the opcode `op` by the fields that follow it. Each kind says that the instructions
the row reads are the ones that `encode` gives that opcode and those fields, and that they are
well-formed when their operand is. -/
inductive RowKind (op : Byte) : (List Byte → DecodeResult) → Prop
  | unknown : RowKind op fun _ => unknownOpcode op
  | plain {i : Instr} (h : i.wf = true ∧ encode i = [op]) : RowKind op fun r => .ok (i, r)
  | byte {k : Byte → Instr} (h : ∀ b, (k b).wf = true ∧ encode (k b) = [op, b]) :
      RowKind op (fieldByte k)
  | word {k : Word → Instr} (h : ∀ w, (k w).wf = true ∧ encode (k w) = op :: wordBytes w) :
      RowKind op (fieldWord k)
  | far {k : Word → Word → Instr}
      (h : ∀ a b, (k a b).wf = true ∧ encode (k a b) = op :: (wordBytes a ++ wordBytes b)) :
      RowKind op (fieldFar k)
  | ebGb {c : Ea8 → Reg8 → Instr}
      (h : ∀ e g, (c e g).wf = e.wf ∧ encode (c e g) = op :: e.bytes g.code) :
      RowKind op (modrmEbGb c)
  | ewGw {c : Ea16 → Reg16 → Instr}
      (h : ∀ e g, (c e g).wf = e.wf ∧ encode (c e g) = op :: e.bytes g.code) :
      RowKind op (modrmEwGw c)
  | gbEb {c : Reg8 → Ea8 → Instr}
      (h : ∀ g e, (c g e).wf = e.wf ∧ encode (c g e) = op :: e.bytes g.code) :
      RowKind op (modrmGbEb c)
  | gwEw {c : Reg16 → Ea16 → Instr}
      (h : ∀ g e, (c g e).wf = e.wf ∧ encode (c g e) = op :: e.bytes g.code) :
      RowKind op (modrmGwEw c)
  | ewSw {c : Ea16 → SReg → Instr}
      (h : ∀ e sr, (c e sr).wf = e.wf ∧ encode (c e sr) = op :: e.bytes sr.code3) :
      RowKind op (modrmEwSw op c)
  | swEw {c : SReg → Ea16 → Instr}
      (h : ∀ sr e, (c sr e).wf = (sr.movDest && e.wf) ∧ encode (c sr e) = op :: e.bytes sr.code3) :
      RowKind op (modrmSwEw op c)
  | eb {sel : BitVec 3 → Option (Ea8 → Instr)}
      (h : ∀ reg c, sel reg = some c → ∀ e, (c e).wf = e.wf ∧ encode (c e) = op :: e.bytes reg) :
      RowKind op (groupEb op sel)
  | ew {sel : BitVec 3 → Option (Ea16 → Instr)}
      (h : ∀ reg c, sel reg = some c → ∀ e, (c e).wf = e.wf ∧ encode (c e) = op :: e.bytes reg) :
      RowKind op (groupEw op sel)
  | ebIb {sel : BitVec 3 → Option (Ea8 → Byte → Instr)}
      (h : ∀ reg c, sel reg = some c → ∀ e b,
        (c e b).wf = e.wf ∧ encode (c e b) = op :: (e.bytes reg ++ [b])) :
      RowKind op (groupEbIb op sel)
  | ewIw {sel : BitVec 3 → Option (Ea16 → Word → Instr)}
      (h : ∀ reg c, sel reg = some c → ∀ e w,
        (c e w).wf = e.wf ∧ encode (c e w) = op :: (e.bytes reg ++ wordBytes w)) :
      RowKind op (groupEwIw op sel)
  | ewIbs {sel : BitVec 3 → Option (Ea16 → Byte → Instr)}
      (h : ∀ reg c, sel reg = some c → ∀ e b,
        (c e b).wf = e.wf ∧ encode (c e b) = op :: (e.bytes reg ++ [b])) :
      RowKind op (groupEwIbs op sel)
  | ebOptIb {sel : BitVec 3 → Option ((Ea8 → Byte → Instr) ⊕ (Ea8 → Instr))}
      (himm : ∀ reg c, sel reg = some (.inl c) → ∀ e b,
        (c e b).wf = e.wf ∧ encode (c e b) = op :: (e.bytes reg ++ [b]))
      (h : ∀ reg c, sel reg = some (.inr c) → ∀ e,
        (c e).wf = e.wf ∧ encode (c e) = op :: e.bytes reg) :
      RowKind op (groupEbOptIb op sel)
  | ewOptIw {sel : BitVec 3 → Option ((Ea16 → Word → Instr) ⊕ (Ea16 → Instr))}
      (himm : ∀ reg c, sel reg = some (.inl c) → ∀ e w,
        (c e w).wf = e.wf ∧ encode (c e w) = op :: (e.bytes reg ++ wordBytes w))
      (h : ∀ reg c, sel reg = some (.inr c) → ∀ e,
        (c e).wf = e.wf ∧ encode (c e) = op :: e.bytes reg) :
      RowKind op (groupEwOptIw op sel)

/-- A reg field has eight values. -/
theorem forall_regField {P : BitVec 3 → Prop} (h0 : P 0) (h1 : P 1) (h2 : P 2) (h3 : P 3) (h4 : P 4)
    (h5 : P 5) (h6 : P 6) (h7 : P 7) (reg : BitVec 3) : P reg := by
  obtain ⟨⟨n, hn⟩⟩ := reg
  match n, hn with
  | 0, _ => exact h0
  | 1, _ => exact h1
  | 2, _ => exact h2
  | 3, _ => exact h3
  | 4, _ => exact h4
  | 5, _ => exact h5
  | 6, _ => exact h6
  | 7, _ => exact h7

/-- The opcode map (30_encoding.md R180), opcode by opcode. -/
theorem rowKind_ofNat : ∀ n < 256, RowKind (BitVec.ofNat 8 n) (decodeOpcode (BitVec.ofNat 8 n))
  | 0x0F | 0x27 | 0x2F | 0x37 | 0x3F | 0x60 | 0x61 | 0x62 | 0x63 | 0x64 | 0x65 | 0x66 | 0x67
  | 0x68 | 0x69 | 0x6A | 0x6B | 0x6C | 0x6D | 0x6E | 0x6F | 0x82 | 0x86 | 0x87 | 0x8D | 0x91
  | 0x92 | 0x93 | 0x94 | 0x95 | 0x96 | 0x97 | 0x98 | 0x99 | 0x9B | 0x9E | 0x9F | 0xA4 | 0xA5
  | 0xA6 | 0xA7 | 0xAA | 0xAB | 0xAC | 0xAD | 0xAE | 0xAF | 0xC0 | 0xC1 | 0xC4 | 0xC5 | 0xC8
  | 0xC9 | 0xD4 | 0xD5 | 0xD6 | 0xD7 | 0xD8 | 0xD9 | 0xDA | 0xDB | 0xDC | 0xDD | 0xDE | 0xDF
  | 0xF0 | 0xF1 | 0xF2 | 0xF3 => fun _ => .unknown
  | 0x06 | 0x07 | 0x0E | 0x16 | 0x17 | 0x1E | 0x1F | 0x26 | 0x2E | 0x36 | 0x3E | 0x40 | 0x41
  | 0x42 | 0x43 | 0x44 | 0x45 | 0x46 | 0x47 | 0x48 | 0x49 | 0x4A | 0x4B | 0x4C | 0x4D | 0x4E
  | 0x4F | 0x50 | 0x51 | 0x52 | 0x53 | 0x54 | 0x55 | 0x56 | 0x57 | 0x58 | 0x59 | 0x5A | 0x5B
  | 0x5C | 0x5D | 0x5E | 0x5F | 0x90 | 0x9C | 0x9D | 0xC3 | 0xCB | 0xCC | 0xCE | 0xCF | 0xEC
  | 0xED | 0xEE | 0xEF | 0xF4 | 0xF5 | 0xF8 | 0xF9 | 0xFA | 0xFB | 0xFC | 0xFD =>
    fun _ => .plain ⟨rfl, rfl⟩
  | 0x04 | 0x0C | 0x14 | 0x1C | 0x24 | 0x2C | 0x34 | 0x3C | 0x70 | 0x71 | 0x72 | 0x73 | 0x74
  | 0x75 | 0x76 | 0x77 | 0x78 | 0x79 | 0x7A | 0x7B | 0x7C | 0x7D | 0x7E | 0x7F | 0xA8 | 0xB0
  | 0xB1 | 0xB2 | 0xB3 | 0xB4 | 0xB5 | 0xB6 | 0xB7 | 0xCD | 0xE0 | 0xE1 | 0xE2 | 0xE3 | 0xE4
  | 0xE5 | 0xE6 | 0xE7 | 0xEB => fun _ => .byte fun _ => ⟨rfl, rfl⟩
  | 0x05 | 0x0D | 0x15 | 0x1D | 0x25 | 0x2D | 0x35 | 0x3D | 0xA0 | 0xA1 | 0xA2 | 0xA3 | 0xA9
  | 0xB8 | 0xB9 | 0xBA | 0xBB | 0xBC | 0xBD | 0xBE | 0xBF | 0xC2 | 0xCA | 0xE8 | 0xE9 =>
    fun _ => .word fun _ => ⟨rfl, rfl⟩
  | 0x9A | 0xEA => fun _ => .far fun _ _ => ⟨rfl, rfl⟩
  | 0x00 | 0x08 | 0x10 | 0x18 | 0x20 | 0x28 | 0x30 | 0x38 | 0x84 | 0x88 =>
    fun _ => .ebGb fun _ _ => ⟨rfl, rfl⟩
  | 0x01 | 0x09 | 0x11 | 0x19 | 0x21 | 0x29 | 0x31 | 0x39 | 0x85 | 0x89 =>
    fun _ => .ewGw fun _ _ => ⟨rfl, rfl⟩
  | 0x02 | 0x0A | 0x12 | 0x1A | 0x22 | 0x2A | 0x32 | 0x3A | 0x8A =>
    fun _ => .gbEb fun _ _ => ⟨rfl, rfl⟩
  | 0x03 | 0x0B | 0x13 | 0x1B | 0x23 | 0x2B | 0x33 | 0x3B | 0x8B =>
    fun _ => .gwEw fun _ _ => ⟨rfl, rfl⟩
  | 0x8C => fun _ => .ewSw fun _ _ => ⟨rfl, rfl⟩
  | 0x8E => fun _ => .swEw fun _ _ => ⟨rfl, rfl⟩
  | 0xD0 | 0xD2 | 0xFE => fun _ => .eb <| by
      apply forall_regField <;> rintro _ ⟨⟩ e <;> exact ⟨rfl, rfl⟩
  | 0x8F | 0xD1 | 0xD3 | 0xFF => fun _ => .ew <| by
      apply forall_regField <;> rintro _ ⟨⟩ e <;> exact ⟨rfl, rfl⟩
  | 0x80 | 0xC6 => fun _ => .ebIb <| by
      apply forall_regField <;> rintro _ ⟨⟩ e b <;> exact ⟨rfl, rfl⟩
  | 0x81 | 0xC7 => fun _ => .ewIw <| by
      apply forall_regField <;> rintro _ ⟨⟩ e w <;> exact ⟨rfl, rfl⟩
  | 0x83 => fun _ => .ewIbs <| by
      apply forall_regField <;> rintro _ ⟨⟩ e b <;> exact ⟨rfl, rfl⟩
  | 0xF6 => fun _ => .ebOptIb
      (by apply forall_regField <;> rintro _ ⟨⟩ e b; exact ⟨rfl, rfl⟩)
      (by apply forall_regField <;> rintro _ ⟨⟩ e <;> exact ⟨rfl, rfl⟩)
  | 0xF7 => fun _ => .ewOptIw
      (by apply forall_regField <;> rintro _ ⟨⟩ e w; exact ⟨rfl, rfl⟩)
      (by apply forall_regField <;> rintro _ ⟨⟩ e <;> exact ⟨rfl, rfl⟩)
  | n + 256 => fun hn => absurd hn (by omega)

theorem rowKind (op : Byte) : RowKind op (decodeOpcode op) := by
  have h := rowKind_ofNat op.toNat op.isLt
  rwa [BitVec.ofNat_toNat, BitVec.setWidth_eq] at h

/-! ## What the decoder consumed (30_encoding.md R184) -/

section Kinds

variable {op : Byte} {f : List Byte → DecodeResult}

/-- What a row consumed is the encoding of the instruction it read. -/
theorem RowKind.consumed (hf : RowKind op f) {r rest : List Byte} {i : Instr}
    (hr : f r = .ok (i, rest)) : i.wf = true ∧ encode i ++ rest = op :: r := by
  cases hf with
  | unknown => cases hr
  | plain h => cases hr; simp [h]
  | byte h => obtain ⟨b, rfl, rfl⟩ := fieldByte_ok hr; simp [h]
  | word h => obtain ⟨w, rfl, rfl⟩ := fieldWord_ok hr; simp [h]
  | far h => obtain ⟨a, b, rfl, rfl⟩ := fieldFar_ok hr; simp [h]
  | ebGb h => obtain ⟨e, g, he, rfl, rfl⟩ := modrmEbGb_ok hr; simp [h, he]
  | ewGw h => obtain ⟨e, g, he, rfl, rfl⟩ := modrmEwGw_ok hr; simp [h, he]
  | gbEb h => obtain ⟨g, e, he, rfl, rfl⟩ := modrmGbEb_ok hr; simp [h, he]
  | gwEw h => obtain ⟨g, e, he, rfl, rfl⟩ := modrmGwEw_ok hr; simp [h, he]
  | ewSw h => obtain ⟨e, sr, he, rfl, rfl⟩ := modrmEwSw_ok hr; simp [h, he]
  | swEw h => obtain ⟨sr, e, hs, he, rfl, rfl⟩ := modrmSwEw_ok hr; simp [h, hs, he]
  | eb h => obtain ⟨reg, c, e, hc, he, rfl, rfl⟩ := groupEb_ok hr; simp [h reg c hc, he]
  | ew h => obtain ⟨reg, c, e, hc, he, rfl, rfl⟩ := groupEw_ok hr; simp [h reg c hc, he]
  | ebIb h => obtain ⟨reg, c, e, b, hc, he, rfl, rfl⟩ := groupEbIb_ok hr; simp [h reg c hc, he]
  | ewIw h => obtain ⟨reg, c, e, w, hc, he, rfl, rfl⟩ := groupEwIw_ok hr; simp [h reg c hc, he]
  | ewIbs h => obtain ⟨reg, c, e, b, hc, he, rfl, rfl⟩ := groupEwIbs_ok hr; simp [h reg c hc, he]
  | ebOptIb himm h =>
    obtain ⟨reg, c, e, b, hc, he, rfl, rfl⟩ | ⟨reg, c, e, hc, he, rfl, rfl⟩ := groupEbOptIb_ok hr
    · simp [himm reg c hc, he]
    · simp [h reg c hc, he]
  | ewOptIw himm h =>
    obtain ⟨reg, c, e, w, hc, he, rfl, rfl⟩ | ⟨reg, c, e, hc, he, rfl, rfl⟩ := groupEwOptIw_ok hr
    · simp [himm reg c hc, he]
    · simp [h reg c hc, he]

end Kinds

/-- Settles O11: the bytes are an opcode, and the opcode's row. -/
theorem encodeOfDecode : Obligations.EncodeOfDecode := by
  unfold Obligations.EncodeOfDecode
  intro bytes i rest h
  cases bytes with
  | nil => cases h
  | cons op r => exact (rowKind op).consumed h

/-! ## What the decoder refuses (30_encoding.md R181, R182, R185) -/

/-- A field after the operand raises no fault of the spec: it can only be cut off, and two bytes are
enough for it. -/
def OnlyTruncates (g : List Byte → DecodeResult) : Prop :=
  ∀ t x, g t = .error x → x = .truncated ∧ t.length < 2

theorem onlyTruncates_fieldByte (k : Byte → Instr) : OnlyTruncates (fieldByte k)
  | [], _, h => by cases h; simp
  | _ :: _, _, h => by cases h

theorem onlyTruncates_fieldWord (k : Word → Instr) : OnlyTruncates (fieldWord k)
  | [], _, h => by cases h; simp
  | [_], _, h => by cases h; simp
  | _ :: _ :: _, _, h => by cases h

theorem onlyTruncates_ok (i : Instr) : OnlyTruncates fun r => .ok (i, r) := nofun

/-- Four bytes are enough for a far address. -/
theorem fieldFar_error {k : Word → Word → Instr} {t : List Byte} {x : Reject}
    (h : fieldFar k t = .error x) : x = .truncated ∧ t.length < 4 := by
  match t, h with
  | [], h | [_], h | [_, _], h | [_, _, _], h => cases h; simp
  | _ :: _ :: _ :: _ :: _, h => cases h

/-- A reg field is refused for its extension or for its segment code. -/
def RefusesField (op : Byte) {α : Type} (sel : BitVec 3 → Except Reject α) : Prop :=
  ∀ reg x, sel reg = .error x →
    x = .fault (.unknownExtension op reg) ∨ x = .fault (.badSegmentRegister op reg)

theorem refusesField_ok (op : Byte) : RefusesField op (.ok : BitVec 3 → Except Reject (BitVec 3)) :=
  nofun

theorem refusesField_extension {α : Type} (op : Byte) (sel : BitVec 3 → Option α) :
    RefusesField op (extension op sel) := by
  intro reg x h
  cases hs : sel reg with
  | some a => rw [extension_some hs] at h; cases h
  | none => rw [extension_none hs] at h; cases h; exact .inl rfl

theorem refusesField_segmentField (op : Byte) (legal : SReg → Bool) :
    RefusesField op (segmentField op legal) := by
  intro reg x h
  unfold segmentField at h
  split at h
  · split at h <;> cases h
    exact .inr rfl
  · cases h
    exact .inr rfl

/-- Every row is the unknown opcode's, or has fields of at most four bytes that can only be cut off,
or has a ModRM byte, whose reg field alone can be refused. -/
theorem RowKind.refusal {op : Byte} {f : List Byte → DecodeResult} (hf : RowKind op f) :
    (f = fun _ => unknownOpcode op) ∨
      (∀ r x, f r = .error x → x = .truncated ∧ r.length < 4) ∨
      ∃ (α : Type) (sel : BitVec 3 → Except Reject α) (k : α → Rm → List Byte → DecodeResult),
        f = modrm sel k ∧ RefusesField op sel ∧ ∀ a rm, OnlyTruncates (k a rm) := by
  cases hf with
  | unknown => exact .inl rfl
  | plain => exact .inr (.inl nofun)
  | byte =>
    exact .inr (.inl fun r x h => (onlyTruncates_fieldByte _ r x h).imp_right (by omega))
  | word =>
    exact .inr (.inl fun r x h => (onlyTruncates_fieldWord _ r x h).imp_right (by omega))
  | far => exact .inr (.inl fun _ _ h => fieldFar_error h)
  | ebGb | ewGw | gbEb | gwEw =>
    exact .inr (.inr ⟨_, _, _, rfl, refusesField_ok op, fun _ _ => onlyTruncates_ok _⟩)
  | ewSw | swEw =>
    exact .inr (.inr ⟨_, _, _, rfl, refusesField_segmentField op _, fun _ _ => onlyTruncates_ok _⟩)
  | eb | ew =>
    exact .inr (.inr ⟨_, _, _, rfl, refusesField_extension op _, fun _ _ => onlyTruncates_ok _⟩)
  | ebIb | ewIbs =>
    exact .inr (.inr ⟨_, _, _, rfl, refusesField_extension op _,
      fun _ _ => onlyTruncates_fieldByte _⟩)
  | ewIw =>
    exact .inr (.inr ⟨_, _, _, rfl, refusesField_extension op _,
      fun _ _ => onlyTruncates_fieldWord _⟩)
  | ebOptIb =>
    refine .inr (.inr ⟨_, _, _, rfl, refusesField_extension op _, fun c _ => ?_⟩)
    cases c
    · exact onlyTruncates_fieldByte _
    · exact onlyTruncates_ok _
  | ewOptIw =>
    refine .inr (.inr ⟨_, _, _, rfl, refusesField_extension op _, fun c _ => ?_⟩)
    cases c
    · exact onlyTruncates_fieldWord _
    · exact onlyTruncates_ok _

section ModrmRows

variable {op : Byte} {α : Type} {sel : BitVec 3 → Except Reject α}
  {k : α → Rm → List Byte → DecodeResult}

/-- A ModRM row refuses for its reg field, or because the list ends within five bytes. -/
theorem modrm_refusal (hsel : RefusesField op sel) (hk : ∀ a rm, OnlyTruncates (k a rm))
    {r : List Byte} {x : Reject} (h : modrm sel k r = .error x) :
    (∃ m t, r = m :: t ∧ sel (regField m) = .error x) ∨ (x = .truncated ∧ r.length < 5) := by
  by_cases hx : x = .truncated
  · subst hx
    have hs : ∀ c, sel c ≠ .error .truncated := fun c hc => by simpa using hsel c _ hc
    rcases modrm_truncated h hs with hlen | ⟨a, rm, t, ht, hlen⟩
    · exact .inr ⟨rfl, by omega⟩
    · have := (hk a rm t _ ht).2
      exact .inr ⟨rfl, by omega⟩
  · left
    cases r with
    | nil => cases h; exact absurd rfl hx
    | cons m t =>
      refine ⟨m, t, rfl, ?_⟩
      unfold modrm at h
      dsimp only at h
      split at h
      · next e he => cases h; exact he
      · split at h
        · cases h; exact absurd rfl hx
        · next _ a _ _ rm t' _ => exact absurd (hk a rm t' x h).1 hx

/-- Whether a ModRM row raises a fault, its reg field alone decides. -/
theorem modrm_fault_iff (hk : ∀ a rm, OnlyTruncates (k a rm)) (hsel : RefusesField op sel)
    (m : Byte) (t : List Byte) (x : EmulationFault) :
    modrm sel k (m :: t) = .error (.fault x) ↔ sel (regField m) = .error (.fault x) := by
  refine ⟨fun h => ?_, fun h => modrm_error h t⟩
  rcases modrm_refusal hsel hk h with ⟨_, _, hmt, hs⟩ | ⟨hx, -⟩
  · cases hmt; exact hs
  · cases hx

end ModrmRows

/-- All that a row can refuse, and that five bytes after the opcode are enough. -/
theorem RowKind.error_cases {op : Byte} {f : List Byte → DecodeResult} (hf : RowKind op f)
    {r : List Byte} {x : Reject} (h : f r = .error x) :
    x = .fault (.unknownOpcode op) ∨ (x = .truncated ∧ r.length < 5) ∨
      ∃ reg, x = .fault (.unknownExtension op reg) ∨ x = .fault (.badSegmentRegister op reg) := by
  rcases hf.refusal with rfl | hfield | ⟨α, sel, k, rfl, hsel, hk⟩
  · cases h; exact .inl rfl
  · exact .inr (.inl ((hfield r x h).imp_right (by omega)))
  · rcases modrm_refusal hsel hk h with ⟨m, t, -, hs⟩ | hcut
    · exact .inr (.inr ⟨_, hsel _ _ hs⟩)
    · exact .inr (.inl hcut)

/-- Every instruction has an opcode. -/
theorem Instr.len_pos (i : Instr) : 1 ≤ i.len := by
  cases i <;> exact Nat.succ_le_succ (Nat.zero_le _)

/-- Settles O12: what was read has the length of its encoding, and five bytes after the opcode are
never cut off. -/
theorem sixBytesDecode : Obligations.SixBytesDecode := by
  unfold Obligations.SixBytesDecode
  intro bytes hlen
  obtain ⟨op, r, rfl⟩ : ∃ op r, bytes = op :: r := List.exists_cons_of_length_pos (by omega)
  have hr : r.length = 5 := by simpa using hlen
  cases hd : decodeOpcode op r with
  | ok p =>
    obtain ⟨i, rest⟩ := p
    have hcount := congrArg List.length ((rowKind op).consumed hd).2
    rw [List.length_append, hlen] at hcount
    exact .inl ⟨i, rest, hd, i.len_pos, by unfold Instr.len; omega, by unfold Instr.len; omega⟩
  | error x =>
    right
    rcases (rowKind op).error_cases hd with rfl | ⟨-, hcut⟩ | ⟨reg, rfl | rfl⟩
    · exact ⟨_, hd, .inl rfl⟩
    · omega
    · exact ⟨_, hd, .inr (.inl rfl)⟩
    · exact ⟨_, hd, .inr (.inr rfl)⟩

/-! ## The opcodes and extensions that are not admitted (30_encoding.md R142, R181, R182) -/

/-- Whether an opcode is unknown does not depend on what follows it. -/
theorem decode_unknownOpcode_iff (op : Byte) (r : List Byte) :
    decode (op :: r) = unknownOpcode op ↔ decodeOpcode op [] = unknownOpcode op := by
  show decodeOpcode op r = _ ↔ _
  rcases (rowKind op).refusal with hf | hfield | ⟨α, sel, k, hf, hsel, hk⟩
  · simp [hf]
  · exact iff_of_false (fun h => nomatch (hfield _ _ h).1) fun h => nomatch (hfield _ _ h).1
  · have hne : ∀ t, modrm sel k t ≠ unknownOpcode op := by
      intro t h
      rcases modrm_refusal hsel hk h with ⟨m, _, -, hs⟩ | ⟨hx, -⟩
      · simpa using hsel _ _ hs
      · cases hx
    rw [hf]
    exact iff_of_false (hne r) (hne [])

/-- Whether an extension is unknown depends on the opcode and the reg field alone. -/
theorem decode_unknownExtension_iff (op m : Byte) (r : List Byte) :
    decode (op :: m :: r) = .error (.fault (.unknownExtension op (regField m))) ↔
      decodeOpcode op [modrmByte 3 (regField m) 0] =
        .error (.fault (.unknownExtension op (regField m))) := by
  show decodeOpcode op (m :: r) = _ ↔ _
  rcases (rowKind op).refusal with hf | hfield | ⟨α, sel, k, hf, hsel, hk⟩
  · simp [hf, unknownOpcode]
  · exact iff_of_false (fun h => nomatch (hfield _ _ h).1) fun h => nomatch (hfield _ _ h).1
  · rw [hf, modrm_fault_iff hk hsel, modrm_fault_iff hk hsel, regField_modrmByte]

/-- Settles O13: neither refusal depends on more than the opcode and the reg field, so the opcode
map is compared with the two lists opcode by opcode and extension by extension. -/
theorem decoderRefusals : Obligations.DecoderRefusals := by
  unfold Obligations.DecoderRefusals
  constructor
  · intro op rest
    refine (decode_unknownOpcode_iff op rest).trans ?_
    revert op
    decide
  · intro op m rest
    rw [decode_unknownExtension_iff]
    generalize regField m = reg
    revert op reg
    decide

end Sys2Proof
end

section
/-! What the mod and rm fields select (30_encoding.md R150, R151, R153). -/

namespace Sys2Proof.Machine

/-- Base plus index of an rm field, as a number (30_encoding.md R150). -/
def State.baseSum (s : State) (rm : Nat) : Nat :=
  match rm with
  | 0 => (s.r16 .bx).toNat + (s.r16 .si).toNat
  | 1 => (s.r16 .bx).toNat + (s.r16 .di).toNat
  | 2 => (s.r16 .bp).toNat + (s.r16 .si).toNat
  | 3 => (s.r16 .bp).toNat + (s.r16 .di).toNat
  | 4 => (s.r16 .si).toNat
  | 5 => (s.r16 .di).toNat
  | 6 => (s.r16 .bp).toNat
  | _ => (s.r16 .bx).toNat

theorem State.toNat_baseIndex (s : State) (c : BitVec 3) :
    (s.baseIndex (.ofCode c)).toNat = s.baseSum c.toNat % 0x10000 := by
  have hsum (a b : Word) : (a + b).toNat = (a.toNat + b.toNat) % 0x10000 := BitVec.toNat_add a b
  have hone (a : Word) : a.toNat = a.toNat % 0x10000 := (Nat.mod_eq_of_lt a.isLt).symm
  revert c
  exact forall_regField (hsum _ _) (hsum _ _) (hsum _ _) (hsum _ _) (hone _) (hone _) (hone _)
    (hone _)

theorem toNat_sext16 (d : Byte) :
    (sext16 d).toNat = if d.toNat < 0x80 then d.toNat else 0xFF00 + d.toNat := by
  revert d; decide

theorem toNat_wordOf (lo hi : Byte) : (wordOf lo hi).toNat = lo.toNat + 0x100 * hi.toNat := by
  rw [wordOf_eq_append, BitVec.toNat_append, ← Nat.shiftLeft_add_eq_or_of_lt lo.isLt,
    Nat.shiftLeft_eq]
  omega

/-- The sum of base, index and displacement is taken modulo 2^16. -/
theorem State.toNat_effAddr_based (s : State) (c : BitVec 3) (d : Disp) :
    (s.effAddr (.based (.ofCode c) d)).toNat =
      (s.baseSum c.toNat + (dispValue d).toNat) % 0x10000 := by
  show (s.baseIndex _ + dispValue d).toNat = _
  rw [BitVec.toNat_add, s.toNat_baseIndex, Nat.mod_add_mod]

/-! ## The forms (30_encoding.md R150, R151) -/

theorem readRm_register {m : Byte} (h : modField m = 3#2) (r : List Byte) :
    readRm m r = some (.reg (rmField m), r) := by simp [readRm, h]

theorem readRm_direct {m : Byte} (h : modField m = 0#2) (hrm : rmField m = 6#3) (d0 d1 : Byte)
    (r : List Byte) : readRm m (d0 :: d1 :: r) = some (.mem (.direct (wordOf d0 d1)), r) := by
  simp [readRm, h, hrm]

theorem readRm_noDisp {m : Byte} (h : modField m = 0#2) (hrm : rmField m ≠ 6#3) (r : List Byte) :
    readRm m r = some (.mem (.based (.ofCode (rmField m)) .none), r) := by
  simp [readRm, h, hrm]

theorem readRm_disp8 {m : Byte} (h : modField m = 1#2) (d : Byte) (r : List Byte) :
    readRm m (d :: r) = some (.mem (.based (.ofCode (rmField m)) (.d8 d)), r) := by
  simp [readRm, h]

theorem readRm_disp16 {m : Byte} (h : modField m = 2#2) (d0 d1 : Byte) (r : List Byte) :
    readRm m (d0 :: d1 :: r) =
      some (.mem (.based (.ofCode (rmField m)) (.d16 (wordOf d0 d1))), r) := by
  simp [readRm, h]

/-- The mod fields of a memory operand. -/
theorem modField_memory {md : BitVec 2} (h : md ≠ 3#2) : md = 0#2 ∨ md = 1#2 ∨ md = 2#2 := by
  revert md; decide

/-- Settles O15: one case for each mod, and for mod = 00 the exception of rm = 110. -/
theorem effectiveAddresses : Obligations.EffectiveAddresses := by
  unfold Obligations.EffectiveAddresses
  refine ⟨fun m r h => readRm_register h r, fun s m d0 d1 rest h => ?_⟩
  dsimp only
  have hsix : (rmField m).toNat = 6 ↔ rmField m = 6#3 := (BitVec.toNat_inj (y := 6#3))
  rcases modField_memory h with h0 | h1 | h2
  · by_cases hrm : rmField m = 6#3
    · refine ⟨_, _, readRm_direct h0 hrm d0 d1 rest, ?_, ?_, ?_, ?_⟩
      · exact fun _ _ => ⟨toNat_wordOf d0 d1, rfl⟩
      · exact fun _ hne => absurd (hsix.2 hrm) hne
      · simp [h0]
      · simp [h0]
    · refine ⟨_, _, readRm_noDisp h0 hrm _, ?_, ?_, ?_, ?_⟩
      · exact fun _ heq => absurd (hsix.1 heq) hrm
      · exact fun _ _ => ⟨s.toNat_effAddr_based _ _, rfl⟩
      · simp [h0]
      · simp [h0]
  · refine ⟨_, _, readRm_disp8 h1 d0 _, ?_, ?_, ?_, ?_⟩
    · simp [h1]
    · simp [h1]
    · intro _
      rw [← toNat_sext16]
      exact ⟨s.toNat_effAddr_based _ _, rfl⟩
    · simp [h1]
  · refine ⟨_, _, readRm_disp16 h2 d0 d1 _, ?_, ?_, ?_, ?_⟩
    · simp [h2]
    · simp [h2]
    · simp [h2]
    · intro _
      rw [← toNat_wordOf]
      exact ⟨s.toNat_effAddr_based _ _, rfl⟩

end Sys2Proof.Machine
end

section
/-! What one step does with the bytes at CS:IP (30_encoding.md R131, R140, R141) and the faults that
the parameters add (R183, 00_scope.md R10). -/

namespace Sys2Proof.Machine

/-! ## Prefixes and the instruction after them (30_encoding.md R131, R140, R141) -/

/-- Every instruction answers a next state, so performing it closes the cycle. -/
theorem perform_completes (i : Instr) (s : State) :
    ∃ t, exec i (s.trace i) = .next t ∧ perform i s = .next t.idleCycle := by
  obtain ⟨t, ht, -⟩ := (UnwritableKept.refl (s.trace i)).exec i
  exact ⟨t, ht, by simp [perform, ht]⟩

/-- A step performs the instruction that the bytes after any prefixes decode to. -/
theorem step_afterPrefixes {s u : State} {ps : List SReg} {i : Instr} {rest : List Byte}
    (hsched : s.schedule = []) (hfault : s.faultStatus = false) (hps : AfterPrefixes s ps u)
    (hdec : decode u.fetchBytes = .ok (i, rest))
    (hpar : parameterFault s.cfg (ps.map Row.segPrefixByte) u.fetchBytes = none) :
    step s = perform i u := by
  obtain ⟨n, hrun, hbyte, hcfg⟩ := execute_afterPrefixes hfault hps
  rw [step_execute hsched, hrun]
  refine runCycle_perform hdec hbyte ?_
  rwa [hcfg, prefixBytes_of_afterPrefixes hps]

/-- Settles O18: the cycle takes the prefixes one by one and then performs the instruction. -/
theorem lastPrefixDecides : Obligations.LastPrefixDecides := by
  unfold Obligations.LastPrefixDecides
  intro s u ps i rest hsched hfault hps hdec hpar
  obtain ⟨t, hexec, hperform⟩ := perform_completes i u
  have hovr : u.segOvr = ps.getLast? := by obtain ⟨-, -, rfl, -⟩ := hps; rfl
  rw [← hovr]
  exact ⟨t, hexec, (step_afterPrefixes hsched hfault hps hdec hpar).trans hperform⟩

/-- With no override byte at CS:IP the state itself is the one that decodes. -/
theorem afterPrefixes_nil {s : State} (hidle : CycleIdle s)
    (hbyte : isPrefixByte (s.fetchByte 0) = false) : AfterPrefixes s [] s :=
  ⟨by simp, nofun, (idleCycle_of_idle hidle).symm, by simpa [isPrefixByte, and_assoc] using hbyte⟩

/-- Settles O17: the case of no override byte. -/
theorem stepRunsDecodedInstruction : Obligations.StepRunsDecodedInstruction := by
  unfold Obligations.StepRunsDecodedInstruction
  intro s i rest hsched hfault hidle hbyte hdec hpar
  exact lastPrefixDecides s s [] i rest hsched hfault (afterPrefixes_nil hidle hbyte) hdec hpar

/-- Settles O19: row by row, the byte and the meaning. -/
theorem prefixRows : Obligations.PrefixRows := by
  unfold Obligations.PrefixRows
  refine fun s r => ⟨?_, exec_segPrefix r s⟩
  rw [← Row.segPrefixByte_eq]
  cases r <;> rfl

/-! ## The faults that the parameters add (30_encoding.md R183, 00_scope.md R10) -/

/-- A group row is selected by its reg field, so it has a ModRM byte (30_encoding.md R182). -/
theorem hasModrm_of_isGroup : ∀ {op : Byte}, isGroup op = true → hasModrm op = true := by decide

/-- The row of an opcode and the byte after it (00_scope.md R10). -/
def rowOf (op m : Byte) : RowId := ⟨op, if isGroup op then some (regField m) else none⟩

/-- `parameterFault` names the same row: a group's opcode has a reg field to name. -/
theorem rowOf_eq (op m : Byte) :
    rowOf op m =
      ⟨op, if isGroup op then if hasModrm op then some (regField m) else none else none⟩ := by
  unfold rowOf
  by_cases hg : isGroup op = true
  · simp [hg, hasModrm_of_isGroup hg]
  · simp [hg]

/-- The memory form is looked at first, then the prefixes, then the row. -/
theorem parameterFault_eq (c : Config) (prefixes bytes : List Byte) :
    let op := bytes.headD 0
    let m := bytes.tail.headD 0
    parameterFault c prefixes bytes =
      if (hasModrm op = true ∧ modField m ≠ 3#2) ∧ rowOf op m ∈ c.regOnlyRows then
        some (.unimplementedAddressing op (regField m))
      else
        (prefixes.find? fun b => decide (⟨b, none⟩ ∈ c.removedRows)).elim
          (if rowOf op m ∈ c.removedRows then
            some (.notImplemented op (if hasModrm op then some (regField m) else none))
          else none)
          fun b => some (.notImplemented b none) := by
  unfold parameterFault
  dsimp only
  generalize bytes.headD 0 = op
  generalize bytes.tail.headD 0 = m
  simp only [rowOf_eq, List.contains_eq_mem, Bool.and_eq_true, bne_iff_ne, decide_eq_true_eq]
  congr 1
  cases prefixes.find? fun b => decide (⟨b, none⟩ ∈ c.removedRows) <;> rfl

/-- Settles O14: case by case of `parameterFault_eq`; that the bytes begin with a well-formed
instruction is not needed. -/
theorem parametersRemoveRows : Obligations.ParametersRemoveRows := by
  unfold Obligations.ParametersRemoveRows
  intro c prefixes i rest _ bytes op m row memoryRemoved removedPrefix answer
  have heq := parameterFault_eq c prefixes bytes
  refine ⟨fun hmem => heq.trans (if_pos hmem), fun hmem => ?_⟩
  have hother := heq.trans (if_neg hmem)
  refine ⟨fun front b back hsplit hfront hb => ?_, fun hkept => ?_⟩
  · have hfind : prefixes.find? (fun b => decide (⟨b, none⟩ ∈ c.removedRows)) = some b := by
      rw [hsplit, List.find?_append, List.find?_eq_none.2 fun x hx => by simpa using hfront x hx,
        Option.none_or]
      exact List.find?_cons_of_pos (by simpa using hb)
    rw [hfind] at hother
    exact hother
  · have hfind : prefixes.find? (fun b => decide (⟨b, none⟩ ∈ c.removedRows)) = none :=
      List.find?_eq_none.2 fun x hx => by simpa using hkept x hx
    rw [hfind] at hother
    exact ⟨fun hrow => hother.trans (if_pos hrow), fun hrow => hother.trans (if_neg hrow)⟩

/-! ## MOV and segment registers (30_encoding.md R162; 40_data_transfer.md R201, R202) -/

/-- The codes 4 to 7 name no segment register. -/
theorem SReg.ofCode3_eq_none {c : BitVec 3} (h : 4 ≤ c.toNat) : SReg.ofCode3 c = none := by
  revert c; decide

theorem segmentField_none (op : Byte) (legal : SReg → Bool) {reg : BitVec 3}
    (h : SReg.ofCode3 reg = none) :
    segmentField op legal reg = .error (.fault (.badSegmentRegister op reg)) := by
  simp [segmentField, h]

theorem segmentField_illegal (op : Byte) {legal : SReg → Bool} {r : SReg} (h : legal r = false) :
    segmentField op legal r.code3 = .error (.fault (.badSegmentRegister op r.code3)) := by
  simp [segmentField, h]

theorem advances_movEwSw {s : State} (h : CpuOk s) (e : Ea16) (r : SReg) :
    Advances s (.movEwSw e r) (0x8C#8 :: e.bytes r.code3)
      (s.view.put16 s.cfg (s.locate16 e) (s.view.seg r)) :=
  .of_shows rfl rfl (.put16 h _ _) (by simp)

theorem advances_movSwEw (s : State) (r : SReg) (e : Ea16) :
    Advances s (.movSwEw r e) (0x8E#8 :: e.bytes r.code3)
      (s.view.setSeg r (s.view.get16 s.cfg (s.locate16 e))) := by
  rw [State.view_get16]
  exact .of_shows rfl rfl (.setSreg s _ _) (by simp)

/-- Settles O25: the rows by what they write, the refusals by the reg field. -/
theorem movSegmentRegister : Obligations.MovSegmentRegister := by
  unfold Obligations.MovSegmentRegister
  refine ⟨fun s h e r => ⟨advances_movEwSw h e r, fun _ => advances_movSwEw s r e⟩,
    fun m rest => ⟨fun h4 => ?_, fun h => ?_, rfl⟩⟩
  · exact modrm_error (segmentField_none 0x8C#8 _ (SReg.ofCode3_eq_none h4)) rest
  · have hseg : segmentField 0x8E#8 SReg.movDest (regField m) =
        .error (.fault (.badSegmentRegister 0x8E#8 (regField m))) := by
      rcases h with hcs | h4
      · rw [hcs]
        exact segmentField_illegal 0x8E#8 (r := .cs) rfl
      · exact segmentField_none _ _ (SReg.ofCode3_eq_none h4)
    exact modrm_error hseg rest

end Sys2Proof.Machine
end

section
/-! Data transfer (40_data_transfer.md): MOV, the stack instructions and I/O, each by the effect of
its shared operation and then the move of IP past its bytes. -/

namespace Sys2Proof.Machine

/-! ## Effects one after another -/

/-- An effect `f` that follows another one acts on what that one shows. -/
theorem Shows.andThen {s t u : State} {v : View} (f : View → View) (h : Shows s t v)
    (k : Shows t u (f t.view)) : Shows s u (f v) := by
  rw [← h.1]
  exact h.trans k

theorem wordBytes_eq_extract (w : Word) :
    wordBytes w = [w.extractLsb' 0 8, w.extractLsb' 8 8] := by
  rw [wordBytes, loByte_eq_extract, hiByte_eq_extract]

/-! ## MOV (40_data_transfer.md R200, R203 to R207) -/

/-- Settles O24: each row writes its destination with the word or byte that the source shows. -/
theorem movRegisterOrMemory : Obligations.MovRegisterOrMemory := by
  unfold Obligations.MovRegisterOrMemory
  refine fun s h => ⟨fun e g => ⟨?_, ?_⟩, fun e g => ⟨?_, ?_⟩⟩
  · rw [State.view_byte]
    exact .of_shows rfl rfl (.put8 h _ _) (by simp)
  · rw [State.view_get8]
    exact .of_shows rfl rfl (.setR8 s _ _) (by simp)
  · exact .of_shows rfl rfl (.put16 h _ _) (by simp)
  · rw [State.view_get16]
    exact .of_shows rfl rfl (.setR16 s _ _) (by simp)

/-- BP is in no direct offset, so `BP_USES_SS` does not matter (20_memory.md R82). -/
theorem State.offsetSegment_eq_dataSegment (s : State) : s.offsetSegment = dataSegment s := by
  unfold State.offsetSegment dataSegment
  cases h : s.segOvr with
  | none => simp [State.memSegment_default h, MemOp.usesBp, Regs.sreg]
  | some r => exact State.memSegment_override h _

/-- Settles O26: the offset's segment is the data segment, and its field is the word's two bytes. -/
theorem movDirectOffset : Obligations.MovDirectOffset := by
  unfold Obligations.MovDirectOffset
  intro s h off
  simp only [← wordBytes_eq_extract, ← State.offsetSegment_eq_dataSegment, State.view_load8,
    State.view_load16, State.view_byte]
  refine ⟨?_, ?_, ?_, ?_⟩
  · exact .of_shows rfl rfl (.setR8 s _ _) (by simp)
  · exact .of_shows rfl rfl (.setR16 s _ _) (by simp)
  · exact .of_shows rfl rfl (.writeMem8 h _ _ _) (by simp)
  · exact .of_shows rfl rfl (.writeMem16 h _ _ _) (by simp)

theorem encode_movR8Ib (r : Reg8) (b : Byte) :
    encode (Row.movR8Ib r b) = [BitVec.ofNat 8 (0xB0 + r.code.toNat), b] := by cases r <;> rfl

theorem exec_movR8Ib (r : Reg8) (b : Byte) (s : State) :
    exec (Row.movR8Ib r b) s = movR8Ib (Row.movR8Ib r b) r b s := by cases r <;> rfl

theorem encode_movR16Iw (r : Reg16) (w : Word) :
    encode (Row.movR16Iw r w) = BitVec.ofNat 8 (0xB8 + r.code.toNat) :: wordBytes w := by
  cases r <;> rfl

theorem exec_movR16Iw (r : Reg16) (w : Word) (s : State) :
    exec (Row.movR16Iw r w) s = movR16Iw (Row.movR16Iw r w) r w s := by cases r <;> rfl

/-- Groups 8F, C6 and C7 have the extension 0 only (30_encoding.md R182). -/
theorem decode_refused_of_onlyExtensionZero {op m : Byte} (hop : op.toNat ∈ [0x8F, 0xC6, 0xC7])
    (hm : regField m ≠ 0#3) (rest : List Byte) :
    decode (op :: m :: rest) = .error (.fault (.unknownExtension op (regField m))) :=
  (decoderRefusals.2 op m rest).2 (.inr (.inr (.inr (.inr ⟨hop, hm⟩))))

/-- Settles O27: the register is the one in the opcode, or the located operand. -/
theorem movImmediate : Obligations.MovImmediate := by
  unfold Obligations.MovImmediate
  simp only [← wordBytes_eq_extract]
  refine ⟨fun s h => ⟨fun r b => ?_, fun r w => ?_, fun e b => ?_, fun e w => ?_⟩,
    fun op m rest hop hm => decode_refused_of_onlyExtensionZero ?_ hm rest⟩
  · exact .of_shows (encode_movR8Ib r b) (exec_movR8Ib r b s) (.setR8 s r b) (by simp)
  · exact .of_shows (encode_movR16Iw r w) (exec_movR16Iw r w s) (.setR16 s r w) (by simp)
  · exact .of_shows rfl rfl (.put8 h _ b) (by simp)
  · exact .of_shows rfl rfl (.put16 h _ w) (by simp)
  · rcases hop with rfl | rfl <;> decide

/-! ## PUSH (40_data_transfer.md R211, R213, R215, R217) -/

theorem encode_pushR16 (r : Reg16) :
    encode (Row.pushR16 r) = [BitVec.ofNat 8 (0x50 + r.code.toNat)] := by cases r <;> rfl

theorem exec_pushR16 (r : Reg16) (s : State) :
    exec (Row.pushR16 r) s = pushR16 (Row.pushR16 r) r s := by cases r <;> rfl

theorem encode_pushSeg (r : SReg) :
    encode (Row.pushSeg r) = [BitVec.ofNat 8 (0x06 + 8 * r.code3.toNat)] := by cases r <;> rfl

theorem exec_pushSeg (r : SReg) (s : State) :
    exec (Row.pushSeg r) s = pushSreg (Row.pushSeg r) r s := by cases r <;> rfl

/-- Settles O28: the word is read before SP moves, and PUSH SP's is the lowered SP. -/
theorem pushRows : Obligations.PushRows := by
  unfold Obligations.PushRows
  refine fun s h => ⟨fun r => ?_, fun r => ?_, fun e => ?_, ?_⟩
  · exact .of_shows (encode_pushR16 r) (exec_pushR16 r s) (.push h _) (by simp)
  · exact .of_shows (encode_pushSeg r) (exec_pushSeg r s) (.push h _) (by simp)
  · rw [State.view_get16]
    exact .of_shows rfl rfl (.push h _) (by simp)
  · exact .of_shows rfl rfl (.push h _) (by simp)

/-! ## POP (40_data_transfer.md R212, R214, R216, R218) -/

/-- SP is all that `pop()` moves (40_data_transfer.md R210). -/
theorem CpuOk.pop {s : State} (h : CpuOk s) : CpuOk s.pop.2 := h

theorem encode_popR16 (r : Reg16) :
    encode (Row.popR16 r) = [BitVec.ofNat 8 (0x58 + r.code.toNat)] := by cases r <;> rfl

theorem exec_popR16 (r : Reg16) (s : State) :
    exec (Row.popR16 r) s = popR16 (Row.popR16 r) r s := by cases r <;> rfl

theorem encode_of_popSeg {r : SReg} {i : Instr} (h : Row.popSeg r = some i) :
    encode i = [BitVec.ofNat 8 (0x07 + 8 * r.code3.toNat)] := by
  cases r <;> cases h <;> rfl

theorem exec_of_popSeg {r : SReg} {i : Instr} (h : Row.popSeg r = some i) (s : State) :
    exec i s = popSreg i r s := by
  cases r <;> cases h <;> rfl

/-- POPF: every flag takes its bit of the popped word (40_data_transfer.md R218). -/
theorem State.view_popf {s : State} (hc : s.cfg.wf = true) :
    ((s.pop.2.setFlags s.pop.1).advance .popf).view =
      { s.view.drop.setFlagWord s.pop.1 with ip := past s [0x9D#8] } := by
  rw [State.view_advance, State.view_setFlags (by simpa using hc), State.view_pop,
    State.nextIp_setFlags, State.nextIp_pop]
  rfl

/-- Settles O29: every row writes the word at SS:SP after SP has moved, 8F where its operand was
located before. -/
theorem popRows : Obligations.PopRows := by
  unfold Obligations.PopRows
  refine ⟨fun s h => ?_, fun m rest =>
    ⟨fun hm => decode_refused_of_onlyExtensionZero (by decide) hm rest, rfl⟩⟩
  rw [← State.fst_pop]
  refine ⟨fun r => ?_, fun r i hi => ?_, fun e => ?_, rfl, ?_⟩
  · have hw := (Shows.pop s).andThen (·.setGen r s.pop.1) (.setR16 _ r _)
    exact .of_shows (encode_popR16 r) (exec_popR16 r s) hw (by simp)
  · have hw := (Shows.pop s).andThen (·.setSeg r s.pop.1) (.setSreg _ r _)
    exact .of_shows (encode_of_popSeg hi) (exec_of_popSeg hi s) hw (by simp)
  · have hw := (Shows.pop s).andThen (·.put16 s.cfg (s.locate16 e) s.pop.1) (.put16 h.pop _ _)
    exact .of_shows rfl rfl hw (by simp)
  · exact ⟨_, rfl, State.view_popf h.1, rfl, by simp [Keeps]⟩

/-! ## IN and OUT (40_data_transfer.md R230 to R233) -/

theorem zext16_eq_ofNat (b : Byte) : zext16 b = BitVec.ofNat 16 b.toNat :=
  (BitVec.ofNat_toNat 16 b).symm

theorem Shows.withDevices (s : State) (p : Pit) (q : Pic) :
    Shows s { s with pit := p, pic := q } { s.view with pit := p, pic := q } :=
  ⟨rfl, fun _ _ => rfl, rfl, rfl, rfl, rfl, rfl, rfl, rfl, rfl⟩

/-- A port read shows in the timer alone. -/
theorem Shows.ioByteRead (s : State) (p : Word) :
    Shows s (s.ioByteRead p).2 { s.view with pit := (s.ioByteRead p).2.pit } := by
  obtain ⟨q, hq, -⟩ := s.ioByteRead_cases p
  rw [hq]
  exact .withDevices s q s.pic

theorem Shows.ioWordRead (s : State) (p : Word) :
    Shows s (s.ioWordRead p).2 { s.view with pit := (s.ioWordRead p).2.pit } := by
  obtain ⟨q, hq, -⟩ := s.ioWordRead_cases p
  rw [hq]
  exact .withDevices s q s.pic

/-- A port write shows in the timer and the controller alone. -/
theorem Shows.ioByteWrite (s : State) (p : Word) (v : Byte) :
    Shows s (s.ioByteWrite p v)
      { s.view with pit := (s.ioByteWrite p v).pit, pic := (s.ioByteWrite p v).pic } := by
  obtain ⟨q, r, hq, -⟩ := s.ioByteWrite_cases p v
  rw [hq]
  exact .withDevices s q r

theorem Shows.ioWordWrite (s : State) (p v : Word) :
    Shows s (s.ioWordWrite p v)
      { s.view with pit := (s.ioWordWrite p v).pit, pic := (s.ioWordWrite p v).pic } := by
  obtain ⟨q, r, hq, -⟩ := s.ioWordWrite_cases p v
  rw [hq]
  exact .withDevices s q r

section Rows

variable {s : State} {i : Instr} {p : Word} {bytes : List Byte}

theorem advances_inAl (he : encode i = bytes) (hx : exec i s = inAl i p s) :
    Advances s i bytes { s.view.setByte .al (s.ioByteRead p).1 with
      pit := (s.ioByteRead p).2.pit } := by
  have hw := (Shows.ioByteRead s p).andThen (·.setByte .al (s.ioByteRead p).1) (.setR8 _ _ _)
  exact .of_shows (t := (s.ioByteRead p).2.setR8 .al (s.ioByteRead p).1) he hx hw (by simp)

/-- The low byte is read first (20_memory.md R100). -/
theorem advances_inAx (he : encode i = bytes) (hx : exec i s = inAx i p s) :
    let lo := s.ioByteRead p
    let hi := lo.2.ioByteRead (p + 1#16)
    Advances s i bytes { s.view.setGen .ax (hi.1 ++ lo.1) with pit := hi.2.pit } := by
  dsimp only
  rw [← wordOf_eq_append]
  have hw := (Shows.ioWordRead s p).andThen (·.setGen .ax (s.ioWordRead p).1) (.setR16 _ _ _)
  exact .of_shows (t := (s.ioWordRead p).2.setR16 .ax (s.ioWordRead p).1) he hx hw (by simp)

theorem advances_outAl (he : encode i = bytes) (hx : exec i s = outAl i p s) :
    let u := s.ioByteWrite p (s.view.byte .al)
    Advances s i bytes { s.view with pit := u.pit, pic := u.pic } := by
  rw [State.view_byte]
  exact .of_shows he hx (.ioByteWrite s p _) (by simp)

/-- The low byte is written first (20_memory.md R100). -/
theorem advances_outAx (he : encode i = bytes) (hx : exec i s = outAx i p s) :
    let u := (s.ioByteWrite p (s.view.byte .al)).ioByteWrite (p + 1#16) (s.view.byte .ah)
    Advances s i bytes { s.view with pit := u.pit, pic := u.pic } := by
  rw [State.view_byte, State.view_byte]
  exact .of_shows he hx (.ioWordWrite s p _) (by simp)

end Rows

/-- Settles O30: the two rows of a width differ in the port alone. -/
theorem inRows : Obligations.InRows := by
  unfold Obligations.InRows
  refine fun s _ => ⟨?_, ?_⟩
  · rintro i p bytes (⟨b, rfl, rfl, rfl⟩ | ⟨rfl, rfl, rfl⟩)
    · rw [← zext16_eq_ofNat]; exact advances_inAl rfl rfl
    · exact advances_inAl rfl rfl
  · rintro i p bytes (⟨b, rfl, rfl, rfl⟩ | ⟨rfl, rfl, rfl⟩)
    · rw [← zext16_eq_ofNat]; exact advances_inAx rfl rfl
    · exact advances_inAx rfl rfl

/-- Settles O31: the two rows of a width differ in the port alone. -/
theorem outRows : Obligations.OutRows := by
  unfold Obligations.OutRows
  refine fun s _ => ⟨?_, ?_⟩
  · rintro i p bytes (⟨b, rfl, rfl, rfl⟩ | ⟨rfl, rfl, rfl⟩)
    · rw [← zext16_eq_ofNat]; exact advances_outAl rfl rfl
    · exact advances_outAl rfl rfl
  · rintro i p bytes (⟨b, rfl, rfl, rfl⟩ | ⟨rfl, rfl, rfl⟩)
    · rw [← zext16_eq_ofNat]; exact advances_outAx rfl rfl
    · exact advances_outAx rfl rfl

end Sys2Proof.Machine
end

section
/-! Arithmetic and logic (41_arithmetic_logic.md R255 to R268): the ALU operations in their forms,
TEST, INC, DEC, NEG and NOT, each by the effect of its shared operation and then the move of IP. -/

namespace Sys2Proof.Machine

/-! ## The ALU operations and TEST (41_arithmetic_logic.md R255 to R264) -/

section Rows

variable {s : State} (h : CpuOk s) {i : Instr} {bytes : List Byte}
include h

theorem advances_alu8 {k : AluOp} {l : Loc8} {a b : Byte} (he : encode i = bytes)
    (hx : exec i s = .next ((s.alu8 k l a b).advance i)) :
    Advances s i bytes (s.view.alu8 s.cfg k l a b) :=
  .of_shows he hx (.alu8 h k l a b) (by simp)

theorem advances_alu16 {k : AluOp} {l : Loc16} {a b : Word} (he : encode i = bytes)
    (hx : exec i s = .next ((s.alu16 k l a b).advance i)) :
    Advances s i bytes (s.view.alu16 s.cfg k l a b) :=
  .of_shows he hx (.alu16 h k l a b) (by simp)

theorem advances_test {w : Nat} {a b : BitVec w} (he : encode i = bytes)
    (hx : exec i s = .next ((s.test a b).advance i)) :
    Advances s i bytes (s.view.setFlags (logicFlag (a &&& b))) :=
  .of_shows he hx (.test h a b) (by simp)

end Rows

/-- Settles O33: in each form the operation selects the row, and the form the operands. -/
theorem aluForms : Obligations.AluForms := by
  unfold Obligations.AluForms
  refine ⟨fun s h k => ?_, fun _ => rfl⟩
  simp only [← wordBytes_eq_extract, State.view_get8, State.view_get16, State.view_byte]
  refine ⟨fun e g => ⟨advances_alu8 h ?_ ?_, advances_alu8 h ?_ ?_⟩, fun b => advances_alu8 h ?_ ?_,
    fun e b => advances_alu8 h ?_ ?_, fun e g => ⟨advances_alu16 h ?_ ?_, advances_alu16 h ?_ ?_⟩,
    fun w => advances_alu16 h ?_ ?_,
    fun e => ⟨fun w => advances_alu16 h ?_ ?_, fun b => advances_alu16 h ?_ ?_⟩⟩
  all_goals cases k <;> rfl

/-- The extension 1 of groups F6 and F7 is unknown (30_encoding.md R182). -/
theorem decode_refused_of_testAlias {op m : Byte} (hop : op = 0xF6#8 ∨ op = 0xF7#8)
    (hm : regField m = 1#3) (rest : List Byte) :
    decode (op :: m :: rest) = .error (.fault (.unknownExtension op 1#3)) := by
  rw [← hm]
  refine (decoderRefusals.2 op m rest).2 ?_
  rcases hop with rfl | rfl <;> rw [hm] <;> decide

/-- Settles O34: the conjunction decides the flags in every form; the alias of TEST has no row. -/
theorem testForms : Obligations.TestForms := by
  unfold Obligations.TestForms
  refine ⟨fun s h => ?_, fun op m rest hop hm => decode_refused_of_testAlias hop hm rest⟩
  simp only [← wordBytes_eq_extract, State.view_get8, State.view_get16, State.view_byte]
  exact ⟨fun e g => advances_test h rfl rfl, fun e g => advances_test h rfl rfl,
    fun b => advances_test h rfl rfl, fun w => advances_test h rfl rfl,
    fun e b => advances_test h rfl rfl, fun e w => advances_test h rfl rfl⟩

/-! ## INC, DEC, NEG and NOT (41_arithmetic_logic.md R265 to R268) -/

theorem encode_incR16 (r : Reg16) :
    encode (Row.incR16 r) = [BitVec.ofNat 8 (0x40 + r.code.toNat)] := by cases r <;> rfl

theorem exec_incR16 (r : Reg16) (s : State) :
    exec (Row.incR16 r) s = .next ((s.inc16 (.reg r)).advance (Row.incR16 r)) := by
  cases r <;> rfl

theorem encode_decR16 (r : Reg16) :
    encode (Row.decR16 r) = [BitVec.ofNat 8 (0x48 + r.code.toNat)] := by cases r <;> rfl

theorem exec_decR16 (r : Reg16) (s : State) :
    exec (Row.decR16 r) s = .next ((s.dec16 (.reg r)).advance (Row.decR16 r)) := by
  cases r <;> rfl

/-- Settles O35: the register in the opcode is the operand, or the located one is. -/
theorem incAndDec : Obligations.IncAndDec := by
  unfold Obligations.IncAndDec
  intro s h
  simp only [State.view_get8, State.view_get16]
  refine ⟨fun r => ⟨?_, ?_⟩, fun e => ⟨?_, ?_⟩, fun e => ⟨?_, ?_⟩⟩
  · exact .of_shows (encode_incR16 r) (exec_incR16 r s) (.inc16 h (.reg r)) (by simp)
  · exact .of_shows (encode_decR16 r) (exec_decR16 r s) (.dec16 h (.reg r)) (by simp)
  · exact .of_shows rfl rfl (.inc8 h _) (by simp)
  · exact .of_shows rfl rfl (.dec8 h _) (by simp)
  · exact .of_shows rfl rfl (.inc16 h _) (by simp)
  · exact .of_shows rfl rfl (.dec16 h _) (by simp)

/-- Settles O36: the negation is the difference from 0. -/
theorem negAndNot : Obligations.NegAndNot := by
  unfold Obligations.NegAndNot
  intro s h
  simp only [State.view_get8, State.view_get16, ← BitVec.zero_sub]
  refine ⟨fun e => ⟨?_, ?_⟩, fun e => ⟨?_, ?_⟩⟩
  · exact .of_shows rfl rfl (.neg8 h _) (by simp)
  · exact .of_shows rfl rfl (.put8 h _ _) (by simp)
  · exact .of_shows rfl rfl (.neg16 h _) (by simp)
  · exact .of_shows rfl rfl (.put16 h _ _) (by simp)

end Sys2Proof.Machine
end

section
/-! What the flags say of the operands (41_arithmetic_logic.md R269), and two consequences: the
property of ADD on bytes (R270) and the conditional jumps after CMP (43_control_transfer.md
R342). -/

namespace Sys2Proof.Machine

/-! ## Sums and differences as numbers (41_arithmetic_logic.md R269) -/

section Operands

variable {w : Nat} (a b : BitVec w)

theorem subFlag_zf (c : Bool) : subFlag a b c (a - b) .zf = some (decide (a = b)) := by
  have hzero : a - b = 0 ↔ a = b := sub_eq_zero
  show some (decide ((a - b).toNat = 0)) = _
  rw [← beq_zero_eq, beq_eq_decide, decide_eq_decide.2 hzero]

/-- SF is the sign of the result (41_arithmetic_logic.md R250). -/
theorem subFlag_sf (c : Bool) (r : BitVec w) :
    subFlag a b c r .sf = some (decide (r.toInt < 0)) := by
  show some (decide (2 ^ (w - 1) ≤ r.toNat)) = _
  rw [← msb_eq, BitVec.msb_eq_toInt]

theorem subFlag_cf (r : BitVec w) :
    subFlag a b false r .cf = some (decide (a.toNat < b.toNat)) := by
  simp [subFlag]

/-- OF of a difference is signed overflow. -/
theorem subFlag_ofl (c : Bool) : subFlag a b c (a - b) .ofl = some (a.ssubOverflow b) := by
  rw [BitVec.ssubOverflow_eq, subFlag]
  cases a.msb <;> cases b.msb <;> cases (a - b).msb <;> rfl

/-- OF of a sum is signed overflow. -/
theorem addFlag_ofl (c : Bool) : addFlag a b c (a + b) .ofl = some (a.saddOverflow b) := by
  rw [BitVec.saddOverflow_eq, addFlag]
  cases a.msb <;> cases b.msb <;> cases (a + b).msb <;> rfl

theorem ssubOverflow_iff : a.ssubOverflow b = true ↔
    ¬(-2 ^ (w - 1) ≤ a.toInt - b.toInt ∧ a.toInt - b.toInt < 2 ^ (w - 1)) := by
  simp only [BitVec.ssubOverflow, Bool.or_eq_true, decide_eq_true_eq]
  omega

theorem saddOverflow_iff : a.saddOverflow b = true ↔
    ¬(-2 ^ (w - 1) ≤ a.toInt + b.toInt ∧ a.toInt + b.toInt < 2 ^ (w - 1)) := by
  simp only [BitVec.saddOverflow, Bool.or_eq_true, decide_eq_true_eq]
  omega

/-- Without overflow the difference has the sign of the integers' difference; with it the operands
have different signs and the difference the sign of `b`. -/
theorem sign_ne_overflow_iff :
    decide ((a - b).toInt < 0) ≠ a.ssubOverflow b ↔ a.toInt < b.toInt := by
  cases ho : a.ssubOverflow b with
  | false =>
    rw [BitVec.toInt_sub_of_not_ssubOverflow (by simp [ho])]
    simp
  | true =>
    simp only [BitVec.ssubOverflow_eq, BitVec.msb_eq_toInt, Bool.or_eq_true, Bool.and_eq_true,
      Bool.not_eq_true', decide_eq_true_eq, decide_eq_false_iff_not] at ho
    rw [ne_eq, decide_eq_true_eq]
    omega

end Operands

/-- What flags `f` say of the operands a and b after their difference was taken
(41_arithmetic_logic.md R269), apart from AF. -/
structure Compares {w : Nat} (f : Flag → Bool) (a b : BitVec w) : Prop where
  equal : f .zf = true ↔ a = b
  below : f .cf = true ↔ a.toNat < b.toNat
  less : f .sf ≠ f .ofl ↔ a.toInt < b.toInt
  overflow : f .ofl = true ↔
    ¬(-2 ^ (w - 1) ≤ a.toInt - b.toInt ∧ a.toInt - b.toInt < 2 ^ (w - 1))
  negative : f .sf = true ↔ (a - b).toInt < 0
  even : f .pf = evenOnes (a - b)

/-- The flags of a difference without a borrow compare its operands. -/
theorem Compares.of_subFlag {w : Nat} {f g : Flag → Bool} {a b : BitVec w}
    (h : ∀ x, f x = (subFlag a b false (a - b) x).getD (g x)) : Compares f a b := by
  have hsf : f .sf = decide ((a - b).toInt < 0) := by rw [h, subFlag_sf]; rfl
  have hof : f .ofl = a.ssubOverflow b := by rw [h, subFlag_ofl]; rfl
  constructor
  case equal => rw [h, subFlag_zf]; simp
  case below => rw [h, subFlag_cf]; simp
  case less => rw [hsf, hof]; exact sign_ne_overflow_iff a b
  case overflow => rw [hof]; exact ssubOverflow_iff a b
  case negative => rw [hsf]; simp
  case even => rw [h]; rfl

/-- Settles O37: the flags of the operations are those of the sum, the difference and the bits. -/
theorem comparisonLaws : Obligations.ComparisonLaws := by
  unfold Obligations.ComparisonLaws
  intro c v w a b hc hw
  have hflag := getFlag_aluFlags hc (show 5 ≤ w by omega) (a := a) (b := b) (v := v)
  refine ⟨fun k hk => ?_, ?_, ?_, fun k hk => ?_, rfl⟩
  · have hcmp : Compares (fun f => getFlag f (aluFlags c.flagsAlwaysSet k a b v)) a b := by
      rcases hk with rfl | rfl <;> exact .of_subFlag (hflag _)
    exact ⟨hcmp.equal, hcmp.below, hcmp.less, hcmp.overflow⟩
  · simp [hflag, aluFlag, addFlag]
  · rw [hflag, aluFlag, aluValue, addFlag_ofl]
    exact saddOverflow_iff a b
  · dsimp only
    rw [hflag, hflag, hflag]
    rcases hk with rfl | rfl | rfl <;> exact ⟨rfl, rfl, rfl⟩

/-! ## ADD of bytes and CMP of words (41_arithmetic_logic.md R270; 43_control_transfer.md R342) -/

theorem evenOnes_ofNat (n : Nat) :
    evenOnes (BitVec.ofNat 8 n) =
      decide (((List.range 8).filter fun k => Nat.testBit n k).length % 2 = 0) := by
  have hbits : (List.range 8).filter (fun k => (BitVec.ofNat 8 n).getLsbD k) =
      (List.range 8).filter fun k => Nat.testBit n k :=
    List.filter_congr fun k hk => by
      rw [BitVec.getLsbD_ofNat, decide_eq_true (List.mem_range.1 hk), Bool.true_and]
  rw [evenOnes, hbits]
  rfl

/-- Settles O38: the form AL,Ib of ADD, seen through the sum as a number. -/
theorem addBytesProperty : Obligations.AddBytesProperty := by
  unfold Obligations.AddBytesProperty
  intro s b h
  dsimp only
  obtain ⟨-, t, hx, hview, -⟩ :=
    advances_alu8 h (i := .addAlIb b) (k := .add) (l := .reg .al) (a := s.r8 .al) (b := b) rfl rfl
  have hsum : s.r8 .al + b = BitVec.ofNat 8 ((s.r8 .al).toNat + b.toNat) :=
    (addResult_false _ b).symm
  have hal : t.r8 .al = s.r8 .al + b := by
    rw [State.r8_eq, ← State.view_byte, hview]
    show (s.view.setByte .al (s.r8 .al + b)).byte .al = _
    rw [← State.view_setR8, State.view_byte, State.setR8]
    exact (Regs.r8_setR8 _ _ _ _).trans (if_pos rfl)
  have hflag (f : Flag) : t.flag f =
      (addFlag (s.r8 .al) b false (s.r8 .al + b) f).getD (s.view.flag f) := by
    rw [State.flag_eq, ← State.view_flag, hview]
    rfl
  refine ⟨t, hx, hal.trans hsum, ?_, ?_, ?_⟩
  · rw [hflag]
    simp [addFlag, Nat.lt_iff_add_one_le]
  · rw [hflag]
    exact decide_eq_true_iff.trans (by rw [BitVec.toNat_add])
  · rw [hflag, hsum]
    simp [addFlag, resultFlag, evenOnes_ofNat]

/-- Settles O45: CMP leaves the flags of the difference, and R342's table reads them. -/
theorem compareThenBranch : Obligations.CompareThenBranch := by
  unfold Obligations.CompareThenBranch
  intro s b h
  dsimp only
  generalize ha : s.view.gen .ax = a
  obtain ⟨-, t, hx, hview, -⟩ :=
    advances_alu16 h (i := .cmpAxIw b) (k := .cmp) (l := .reg .ax) (a := a) (b := b) rfl
      (ha ▸ rfl)
  have hcmp : Compares t.view.flag a b := .of_subFlag (g := s.view.flag) fun f => by rw [hview]; rfl
  have hne := Bool.eq_false_iff.trans hcmp.equal.not
  have hnb := Bool.eq_false_iff.trans hcmp.below.not
  have hge := not_ne_iff.symm.trans hcmp.less.not
  refine ⟨t, hx, by rw [hview]; rfl, fun c => ?_⟩
  cases c with
  | z => exact hcmp.equal
  | nz => exact hne
  | b => exact hcmp.below
  | nb => exact hnb.trans not_lt
  | be => exact (hcmp.below.or hcmp.equal).trans (by rw [← BitVec.toNat_inj]; omega)
  | a => exact (hnb.and hne).trans (by rw [ne_eq, ← BitVec.toNat_inj]; omega)
  | l => exact hcmp.less
  | ge => exact hge.trans not_lt
  | le => exact (hcmp.equal.or hcmp.less).trans (by rw [← BitVec.toInt_inj]; omega)
  | g => exact (hne.and hge).trans (by rw [ne_eq, ← BitVec.toInt_inj]; omega)
  | s => exact hcmp.negative
  | ns => exact Bool.eq_false_iff.trans (hcmp.negative.not.trans not_lt)
  | o => exact hcmp.overflow
  | no => exact Bool.eq_false_iff.trans (hcmp.overflow.not.trans not_not)
  | p => exact Bool.coe_iff_coe.2 hcmp.even
  | np => exact hcmp.even ▸ Iff.rfl

end Sys2Proof.Machine
end

section
/-! The shift and rotate group (42_shift_rotate.md R300 to R309): its four rows for each operation,
whose meaning is one `shiftop` and then the move of IP, and the rows that it does not have. -/

namespace Sys2Proof.Machine

section Rows

variable {s : State} (h : CpuOk s) {i : Instr} {bytes : List Byte} {k : ShiftOp} {n : Nat}
include h

theorem shiftsByte_of_exec {e : Ea8} (he : encode i = bytes)
    (hx : exec i s = .next ((s.shift8 k n e).advance i)) : ShiftsByte s i bytes k n e := by
  unfold ShiftsByte
  split
  case isTrue hn =>
    rw [hn, State.shift8_zero] at hx
    exact .of_shows he hx (.refl s) rfl
  case isFalse hn =>
    subst he
    rw [State.view_get8]
    obtain ⟨o, a, ho, hs⟩ := Shows.shift8 h k hn e
    exact ⟨rfl, _, o, a, hx, ho, hs.advance (State.nextIp_shift8 s k n e i)⟩

theorem shiftsWord_of_exec {e : Ea16} (he : encode i = bytes)
    (hx : exec i s = .next ((s.shift16 k n e).advance i)) : ShiftsWord s i bytes k n e := by
  unfold ShiftsWord
  split
  case isTrue hn =>
    rw [hn, State.shift16_zero] at hx
    exact .of_shows he hx (.refl s) rfl
  case isFalse hn =>
    subst he
    rw [State.view_get16]
    obtain ⟨o, a, ho, hs⟩ := Shows.shift16 h k hn e
    exact ⟨rfl, _, o, a, hx, ho, hs.advance (State.nextIp_shift16 s k n e i)⟩

end Rows

/-- The shift groups have no extension 6 (30_encoding.md R182). -/
theorem decode_refused_of_shiftSix {op m : Byte} (hlo : 0xD0 ≤ op.toNat) (hhi : op.toNat ≤ 0xD3)
    (hm : regField m = 6#3) (rest : List Byte) :
    decode (op :: m :: rest) = .error (.fault (.unknownExtension op 6#3)) := by
  have hop : op.toNat ∈ [0xD0, 0xD1, 0xD2, 0xD3] := by
    simp only [List.mem_cons, List.not_mem_nil]
    omega
  rw [← hm]
  exact (decoderRefusals.2 op m rest).2 (.inl ⟨hop, hm⟩)

/-- Settles O39: the operation selects the row of each of the four opcodes, whose meaning is one
`shiftop`. -/
theorem shiftForms : Obligations.ShiftForms := by
  unfold Obligations.ShiftForms
  simp only [State.view_byte]
  refine ⟨fun s h k =>
      ⟨fun e => ⟨shiftsByte_of_exec h ?_ ?_, shiftsByte_of_exec h ?_ ?_⟩,
        fun e => ⟨shiftsWord_of_exec h ?_ ?_, shiftsWord_of_exec h ?_ ?_⟩⟩,
    fun op m rest hlo hhi hm => decode_refused_of_shiftSix hlo hhi hm rest,
    fun op rest hop => by rcases hop with rfl | rfl <;> rfl⟩
  all_goals cases k <;> rfl

end Sys2Proof.Machine
end

section
/-! The shifts and rotates by a whole count (42_shift_rotate.md R302 to R308): n one-bit steps are
one rotation or shift by n, and the last step moves CF out of the value after n - 1 steps. A rotate
through carry is a rotate of the value under its CF, one bit wider. -/

namespace Sys2Proof.Machine

/-! ## Rotations by a sum and by the width -/

section Rotations

variable {w : Nat} (x : BitVec w)

theorem rotateLeft_add (m n : Nat) : x.rotateLeft (m + n) = (x.rotateLeft m).rotateLeft n := by
  refine BitVec.eq_of_getMsbD_eq fun i hi => ?_
  have hmod : (n + i) % w < w := Nat.mod_lt _ (Nat.zero_lt_of_lt hi)
  simp only [BitVec.getMsbD_rotateLeft, hmod, decide_true, Bool.true_and, Nat.add_mod_mod,
    Nat.add_assoc]

/-- The bits of a rotation to the right, counted modulo the width. -/
theorem getLsbD_rotateRight_mod (n : Nat) {i : Nat} (hi : i < w) :
    (x.rotateRight n).getLsbD i = x.getLsbD ((n + i) % w) := by
  have hn : n % w < w := Nat.mod_lt n (Nat.zero_lt_of_lt hi)
  rw [BitVec.getLsbD_rotateRight, Nat.add_mod_eq_ite, Nat.mod_eq_of_lt hi]
  by_cases h : i < w - n % w
  · simp [h, show ¬ w ≤ n % w + i by omega]
  · simp [h, hi, show w ≤ n % w + i by omega, show i - (w - n % w) = n % w + i - w by omega]

theorem rotateRight_add (m n : Nat) : x.rotateRight (m + n) = (x.rotateRight m).rotateRight n := by
  refine BitVec.eq_of_getLsbD_eq fun i hi => ?_
  have hmod : (n + i) % w < w := Nat.mod_lt _ (Nat.zero_lt_of_lt hi)
  simp only [getLsbD_rotateRight_mod, hi, hmod, Nat.add_mod_mod, Nat.add_assoc]

theorem rotateLeft_zero : x.rotateLeft 0 = x := by
  refine BitVec.eq_of_getLsbD_eq fun i hi => ?_
  simp [hi]

theorem rotateRight_zero : x.rotateRight 0 = x := by
  refine BitVec.eq_of_getLsbD_eq fun i hi => ?_
  simp [hi]

theorem rotateLeft_width : x.rotateLeft w = x := by
  rw [← BitVec.rotateLeft_mod_eq_rotateLeft, Nat.mod_self, rotateLeft_zero]

theorem rotateRight_width : x.rotateRight w = x := by
  rw [← BitVec.rotateRight_mod_eq_rotateRight, Nat.mod_self, rotateRight_zero]

/-- The bit that leaves on the left enters on the right. -/
theorem getLsbD_zero_rotateLeft_one (hw : 2 ≤ w) : (x.rotateLeft 1).getLsbD 0 = x.msb := by
  simp [Nat.mod_eq_of_lt hw, BitVec.msb_eq_getLsbD_last]

/-- The bit that leaves on the right enters on the left. -/
theorem msb_rotateRight_one (hw : 2 ≤ w) : (x.rotateRight 1).msb = x.getLsbD 0 := by
  rw [BitVec.msb_eq_getLsbD_last, getLsbD_rotateRight_mod x 1 (by omega),
    show 1 + (w - 1) = w by omega, Nat.mod_self]

end Rotations

/-! ## n steps as one operation (42_shift_rotate.md R301 to R303, R306 to R308) -/

section Counts

variable {w : Nat} (hw : 2 ≤ w) (x : BitVec w) (cf : Bool) (n : Nat)
include hw

theorem shiftSteps_succ (k : ShiftOp) :
    shiftSteps k (n + 1) x cf = oneStep k (shiftSteps k n x cf) := by
  simp only [shiftSteps_eq hw, manySteps, Function.iterate_succ_apply']

/-- The value after n steps is `f n`, when `f` starts at the operand and each step moves it on. -/
theorem fst_shiftSteps {k : ShiftOp} {f : Nat → BitVec w} (hzero : f 0 = x)
    (hsucc : ∀ m c, (oneStep k (f m, c)).1 = f (m + 1)) : (shiftSteps k n x cf).1 = f n := by
  induction n with
  | zero => exact hzero.symm
  | succ n ih => rw [shiftSteps_succ hw, ← hsucc n (shiftSteps k n x cf).2, ← ih]

theorem fst_shiftSteps_rol : (shiftSteps .rol n x cf).1 = x.rotateLeft n :=
  fst_shiftSteps hw x cf n (rotateLeft_zero x) fun m _ => (rotateLeft_add x m 1).symm

theorem fst_shiftSteps_ror : (shiftSteps .ror n x cf).1 = x.rotateRight n :=
  fst_shiftSteps hw x cf n (rotateRight_zero x) fun m _ => (rotateRight_add x m 1).symm

theorem fst_shiftSteps_shl : (shiftSteps .shl n x cf).1 = x <<< n :=
  fst_shiftSteps hw x cf n (BitVec.shiftLeft_zero x) fun m _ => (BitVec.shiftLeft_add x m 1).symm

theorem fst_shiftSteps_shr : (shiftSteps .shr n x cf).1 = x >>> n :=
  fst_shiftSteps hw x cf n (BitVec.ushiftRight_zero x) fun m _ => (BitVec.shiftRight_add x m 1).symm

theorem fst_shiftSteps_sar : (shiftSteps .sar n x cf).1 = x.sshiftRight n :=
  fst_shiftSteps hw x cf n BitVec.sshiftRight_zero fun _ _ => BitVec.sshiftRight_add.symm

/-! ### The last bit moved out -/

theorem snd_shiftSteps_rol :
    (shiftSteps .rol (n + 1) x cf).2 = (x.rotateLeft (n + 1)).getLsbD 0 := by
  rw [shiftSteps_succ hw, rotateLeft_add, getLsbD_zero_rotateLeft_one _ hw,
    ← fst_shiftSteps_rol hw x cf]
  rfl

theorem snd_shiftSteps_ror : (shiftSteps .ror (n + 1) x cf).2 = (x.rotateRight (n + 1)).msb := by
  rw [shiftSteps_succ hw, rotateRight_add, msb_rotateRight_one _ hw, ← fst_shiftSteps_ror hw x cf]
  rfl

theorem snd_shiftSteps_shl : (shiftSteps .shl (n + 1) x cf).2 =
    (decide (n + 1 ≤ w) && x.getLsbD (w - (n + 1))) := by
  have hmsb : (shiftSteps .shl (n + 1) x cf).2 = (x <<< n).msb := by
    rw [shiftSteps_succ hw, ← fst_shiftSteps_shl hw x cf]
    rfl
  rw [hmsb, BitVec.msb_shiftLeft, BitVec.getMsbD]
  simp only [Nat.lt_iff_add_one_le, show w - 1 - n = w - (n + 1) by omega]

theorem snd_shiftSteps_shr : (shiftSteps .shr (n + 1) x cf).2 = x.getLsbD n := by
  have hlow : (shiftSteps .shr (n + 1) x cf).2 = (x >>> n).getLsbD 0 := by
    rw [shiftSteps_succ hw, ← fst_shiftSteps_shr hw x cf]
    rfl
  rw [hlow, BitVec.getLsbD_ushiftRight, Nat.add_zero]

theorem snd_shiftSteps_sar :
    (shiftSteps .sar (n + 1) x cf).2 = (x.sshiftRight n).getLsbD 0 := by
  rw [shiftSteps_succ hw, ← fst_shiftSteps_sar hw x cf]
  rfl

end Counts

/-! ## Rotates through carry (42_shift_rotate.md R304, R305) -/

/-- The wider value holds both the value and its CF. -/
theorem eq_of_cons_eq {w : Nat} {p q : BitVec w × Bool} (h : p.1.cons p.2 = q.1.cons q.2) :
    p = q := by
  have hvalue := congrArg (BitVec.setWidth w) h
  have hcarry := congrArg BitVec.msb h
  rw [BitVec.setWidth_cons, BitVec.setWidth_cons] at hvalue
  rw [BitVec.msb_cons, BitVec.msb_cons] at hcarry
  exact Prod.ext hvalue hcarry

section ThroughCarry

variable {w : Nat} (hw : 2 ≤ w) (x : BitVec w) (cf : Bool)
include hw

/-- One step of RCL rotates the value under its CF. -/
theorem cons_oneStep_rcl :
    (oneStep .rcl (x, cf)).1.cons (oneStep .rcl (x, cf)).2 = (x.cons cf).rotateLeft 1 := by
  have h1 : 1 % (w + 1) = 1 := Nat.mod_eq_of_lt (by omega)
  have hw0 : 0 < w := by omega
  refine BitVec.eq_of_getLsbD_eq fun i hi => ?_
  rw [BitVec.getLsbD_rotateLeft, h1]
  simp only [oneStep, BitVec.getLsbD_cons, BitVec.getLsbD_or, BitVec.getLsbD_shiftLeft,
    BitVec.getLsbD_ofNat, Nat.testBit_bool_toNat, BitVec.msb_eq_getLsbD_last]
  cases i with
  | zero => simp [hw0, hw0.ne]
  | succ i =>
    obtain rfl | hlow : i + 1 = w ∨ i + 1 < w := by omega
    · simp
    · simp [hlow, hlow.ne, show i < w by omega, show i ≠ w by omega]

/-- One step of RCR rotates the value under its CF. -/
theorem cons_oneStep_rcr :
    (oneStep .rcr (x, cf)).1.cons (oneStep .rcr (x, cf)).2 = (x.cons cf).rotateRight 1 := by
  have h1 : 1 % (w + 1) = 1 := Nat.mod_eq_of_lt (by omega)
  have hw0 : 0 < w := by omega
  refine BitVec.eq_of_getLsbD_eq fun i hi => ?_
  rw [getLsbD_rotateRight_mod _ 1 hi]
  simp only [oneStep, BitVec.getLsbD_cons, BitVec.getLsbD_or, BitVec.getLsbD_shiftLeft,
    BitVec.getLsbD_ushiftRight, BitVec.getLsbD_ofNat, Nat.testBit_bool_toNat]
  obtain rfl | rfl | hlow : i = w ∨ i = w - 1 ∨ i < w - 1 := by omega
  · simp [show 1 + i = i + 1 by omega, hw0.ne]
  · simp [hw0, show w - 1 ≠ w by omega, show 1 + (w - 1) = w by omega]
  · simp [hlow, show i ≠ w by omega, show 1 + i < w + 1 by omega, show 1 + i ≠ w by omega,
      Nat.mod_eq_of_lt]

theorem cons_shiftSteps_rcl (n : Nat) :
    (shiftSteps .rcl n x cf).1.cons (shiftSteps .rcl n x cf).2 = (x.cons cf).rotateLeft n := by
  induction n with
  | zero => exact (rotateLeft_zero _).symm
  | succ n ih => rw [shiftSteps_succ hw, rotateLeft_add, ← ih, ← cons_oneStep_rcl hw]

theorem cons_shiftSteps_rcr (n : Nat) :
    (shiftSteps .rcr n x cf).1.cons (shiftSteps .rcr n x cf).2 = (x.cons cf).rotateRight n := by
  induction n with
  | zero => exact (rotateRight_zero _).symm
  | succ n ih => rw [shiftSteps_succ hw, rotateRight_add, ← ih, ← cons_oneStep_rcr hw]

theorem shiftSteps_rcl_period : shiftSteps .rcl (w + 1) x cf = (x, cf) :=
  eq_of_cons_eq ((cons_shiftSteps_rcl hw x cf (w + 1)).trans (rotateLeft_width _))

theorem shiftSteps_rcr_period : shiftSteps .rcr (w + 1) x cf = (x, cf) :=
  eq_of_cons_eq ((cons_shiftSteps_rcr hw x cf (w + 1)).trans (rotateRight_width _))

end ThroughCarry

/-- Settles O40: the widths 8 and 16 are at least 2, which is all that the steps need. -/
theorem shiftsByCount : Obligations.ShiftsByCount := by
  unfold Obligations.ShiftsByCount
  intro w n x cf hcase
  have hw : 2 ≤ w := by omega
  refine ⟨fst_shiftSteps_rol hw x cf n, fst_shiftSteps_ror hw x cf n, fst_shiftSteps_shl hw x cf n,
    fst_shiftSteps_shr hw x cf n, fst_shiftSteps_sar hw x cf n, shiftSteps_rcl_period hw x cf,
    shiftSteps_rcr_period hw x cf, fun hn => ?_⟩
  obtain ⟨m, rfl⟩ := Nat.exists_eq_succ_of_ne_zero hn.ne'
  exact ⟨snd_shiftSteps_rol hw x cf m, snd_shiftSteps_ror hw x cf m, snd_shiftSteps_shl hw x cf m,
    snd_shiftSteps_shr hw x cf m, snd_shiftSteps_sar hw x cf m⟩

end Sys2Proof.Machine
end

section
/-! Jumps, calls, returns, loops, interrupts and HLT (43_control_transfer.md): each by the effect of
its shared operations and the write of IP that ends it. -/

namespace Sys2Proof.Machine

/-! ## Writes of IP (43_control_transfer.md R330) -/

/-- The last act of an instruction that relocates. -/
theorem Shows.setIp {s t : State} {v : View} (h : Shows s t v) (w : Word) :
    Shows s (t.setIp w) { v with ip := w } :=
  h.andThen (fun u => { u with ip := w }) ⟨rfl, .of_flags rfl, by simp [Keeps]⟩

/-- The last acts of an instruction that relocates to another code segment. -/
theorem Shows.setCsIp {s t : State} {v : View} (h : Shows s t v) (ip cs : Word) :
    Shows s ((t.setIp ip).setSreg .cs cs) { v.setSeg .cs cs with ip := ip } :=
  (h.setIp ip).andThen (·.setSeg .cs cs) (.setSreg _ .cs cs)

/-- An instruction that ends in a jump to a relative target if `P`, else to the next one. -/
theorem runs_jumpIf {s t : State} {v : View} {i : Instr} {bytes : List Byte} {P : Prop}
    {taken : Bool} {d : Byte} (hP : P ↔ taken = true) (ht : Shows s t v) (he : encode i = bytes)
    (hx : exec i s = .next (t.jumpIf taken i d)) (hn : t.nextIp i = s.nextIp i) :
    (P → Runs s i bytes { v with ip := past s bytes + d.signExtend 16 }) ∧
      (¬P → Advances s i bytes v) := by
  subst he
  rw [hP, Bool.not_eq_true]
  constructor <;> rintro rfl
  · rw [← State.nextIp_eq_past, ← hn]
    exact ⟨rfl, _, hx, ht.setIp _⟩
  · exact .of_shows rfl hx ht hn

/-! ## Jumps and calls (43_control_transfer.md R331 to R337) -/

theorem CpuOk.push {s : State} (h : CpuOk s) (w : Word) : CpuOk (s.push w) := by
  obtain ⟨hcfg, hmem, hflags⟩ := h
  exact ⟨by simpa using hcfg, State.wf_push hmem w, by simpa [FlagsReserved] using hflags⟩

/-- Two pushes, the second one below the first. -/
theorem Shows.push_push {s : State} (h : CpuOk s) (w x : Word) :
    Shows s ((s.push w).push x) ((s.view.push s.cfg w).push s.cfg x) := by
  have hsecond := Shows.push (h.push w) x
  rw [State.cfg_push] at hsecond
  exact (Shows.push h w).andThen (·.push s.cfg x) hsecond

/-- The far indirect jump and call are not admitted (30_encoding.md R182). -/
theorem decode_refused_of_farIndirect {m : Byte} (hm : regField m = 3#3 ∨ regField m = 5#3)
    (rest : List Byte) :
    decode (0xFF#8 :: m :: rest) = .error (.fault (.unknownExtension 0xFF#8 (regField m))) :=
  (decoderRefusals.2 0xFF#8 m rest).2
    (.inr (.inr (.inr (.inl ⟨rfl, by rcases hm with h | h <;> simp [h]⟩))))

theorem runs_callJw {s : State} (h : CpuOk s) (d : Word) :
    Runs s (.callJw d) (0xE8#8 :: wordBytes d)
      { s.view.push s.cfg (past s (0xE8#8 :: wordBytes d)) with
        ip := past s (0xE8#8 :: wordBytes d) + d } :=
  ⟨rfl, _, rfl, (Shows.push h _).setIp _⟩

theorem runs_callAp {s : State} (h : CpuOk s) (off seg : Word) :
    Runs s (.callAp off seg) (0x9A#8 :: (wordBytes off ++ wordBytes seg))
      { ((s.view.push s.cfg (s.view.seg .cs)).push s.cfg
          (past s (0x9A#8 :: (wordBytes off ++ wordBytes seg)))).setSeg .cs seg with ip := off } :=
  ⟨rfl, _, rfl, (Shows.push_push h _ _).setCsIp off seg⟩

/-- Settles O41: each row ends in its write of IP, and a call pushes before it. The target of an
indirect one is the operand of the state before the push. -/
theorem jumpsAndCalls : Obligations.JumpsAndCalls := by
  unfold Obligations.JumpsAndCalls
  refine ⟨fun s h => ⟨fun d => ?_, fun d => ?_, fun off seg => ?_, fun e => ?_⟩,
    fun m rest hm => decode_refused_of_farIndirect hm rest⟩
  · exact ⟨rfl, _, rfl, (Shows.refl s).setIp _⟩
  · simp only [← wordBytes_eq_extract]
    exact ⟨⟨rfl, _, rfl, (Shows.refl s).setIp _⟩, runs_callJw h d⟩
  · have hfield : [off.extractLsb' 0 8, off.extractLsb' 8 8, seg.extractLsb' 0 8,
        seg.extractLsb' 8 8] = wordBytes off ++ wordBytes seg := by
      rw [wordBytes_eq_extract, wordBytes_eq_extract]; rfl
    rw [hfield]
    exact ⟨⟨rfl, _, rfl, (Shows.refl s).setCsIp off seg⟩, runs_callAp h off seg⟩
  · rw [State.view_get16]
    exact ⟨⟨rfl, _, rfl, (Shows.refl s).setIp _⟩, ⟨rfl, _, rfl, (Shows.push h _).setIp _⟩⟩

/-! ## Returns (43_control_transfer.md R338 to R341) -/

theorem View.setGen_setGen (v : View) (r : Reg16) (x y : Word) :
    (v.setGen r x).setGen r y = v.setGen r y := by
  simp only [View.setGen, View.mk.injEq, and_true]
  funext q
  split <;> rfl

@[simp] theorem View.gen_setGen_same (v : View) (r : Reg16) (w : Word) : (v.setGen r w).gen r = w :=
  if_pos rfl

theorem View.drop_drop (v : View) : v.drop.drop = v.setGen .sp (v.gen .sp + 4#16) := by
  rw [View.drop, View.drop, View.setGen_setGen, View.gen_setGen_same, add_assoc]
  rfl

theorem Shows.pop_pop (s : State) : Shows s s.pop.2.pop.2 s.view.drop.drop :=
  (Shows.pop s).andThen View.drop (.pop _)

theorem State.fst_pop_pop (s : State) : s.pop.2.pop.1 = s.view.drop.top s.cfg := by
  rw [State.fst_pop, State.view_pop]
  rfl

theorem runs_ret (s : State) :
    Runs s .ret [0xC3#8] { s.view.drop with ip := s.view.top s.cfg } := by
  rw [← State.fst_pop]
  exact ⟨rfl, _, rfl, (Shows.pop s).setIp _⟩

theorem runs_retf (s : State) :
    Runs s .retf [0xCB#8] { s.view.drop.drop.setSeg .cs (s.view.drop.top s.cfg) with
      ip := s.view.top s.cfg } := by
  rw [← State.fst_pop, ← State.fst_pop_pop]
  exact ⟨rfl, _, rfl, (Shows.pop_pop s).setCsIp _ _⟩

/-- Settles O42: IP, and CS for a far return, come from the pops; the immediate is added to the SP
that they leave. -/
theorem returns : Obligations.Returns := by
  unfold Obligations.Returns
  refine fun s _ => ⟨runs_ret s, runs_retf s, fun w => ?_⟩
  rw [← wordBytes_eq_extract, ← State.fst_pop, ← State.fst_pop_pop]
  constructor
  · have hview : s.view.setGen .sp (s.view.gen .sp + 2#16 + w) =
        s.view.drop.setGen .sp (s.view.drop.gen .sp + w) := by
      rw [View.drop, View.setGen_setGen, View.gen_setGen_same]
    rw [hview]
    exact ⟨rfl, _, rfl, ((Shows.pop s).setIp _).andThen
      (fun v => v.setGen .sp (v.gen .sp + w)) (.setR16 _ .sp _)⟩
  · have hview : s.view.setGen .sp (s.view.gen .sp + 4#16 + w) =
        s.view.drop.drop.setGen .sp (s.view.drop.drop.gen .sp + w) := by
      rw [View.drop_drop, View.setGen_setGen, View.gen_setGen_same]
    rw [hview]
    exact ⟨rfl, _, rfl, ((Shows.pop_pop s).setCsIp _ _).andThen
      (fun v => v.setGen .sp (v.gen .sp + w)) (.setR16 _ .sp _)⟩

/-! ## Conditional jumps and loops (43_control_transfer.md R342 to R363) -/

theorem condition_code_iff (c : Row.Cond) (v : Word) :
    condition (BitVec.ofNat 4 c.code) v = true ↔ c.holds fun f => getFlag f v := by
  cases c <;> simp [condition, Row.Cond.code, Row.Cond.holds]

theorem encode_jump (c : Row.Cond) (d : Byte) :
    encode (Row.jump c d) = [BitVec.ofNat 8 (0x70 + c.code), d] := by cases c <;> rfl

theorem exec_jump (c : Row.Cond) (d : Byte) (s : State) :
    exec (Row.jump c d) s = jcc (BitVec.ofNat 4 c.code) (Row.jump c d) d s := by cases c <;> rfl

/-- Settles O44: `condition` of a code is what R342's table says, and the jump is taken on it. -/
theorem conditionalJumps : Obligations.ConditionalJumps := by
  unfold Obligations.ConditionalJumps
  exact ⟨fun s _ c d => runs_jumpIf (condition_code_iff c s.flags).symm (.refl s) (encode_jump c d)
    (exec_jump c d s) rfl, fun rest => rfl⟩

/-- A row of the LOOP family: CX goes down by 1 before the row decides. -/
theorem runs_loop {s : State} {i : Instr} {op d : Byte} {P : Prop} {taken : Bool}
    (hP : P ↔ taken = true) (he : encode i = [op, d])
    (hx : exec i s = .next (s.countCx.jumpIf taken i d)) :
    let v := s.view.setGen .cx (s.view.gen .cx - 1#16)
    (P → Runs s i [op, d] { v with ip := past s [op, d] + d.signExtend 16 }) ∧
      (¬P → Advances s i [op, d] v) :=
  runs_jumpIf hP (.setR16 s .cx _) he hx (State.nextIp_countCx s i)

theorem State.cxLeft_countCx_iff (s : State) :
    s.countCx.cxLeft = true ↔ s.view.gen .cx - 1#16 ≠ 0#16 := bne_iff_ne

theorem State.flag_countCx (s : State) (f : Flag) : s.countCx.flag f = s.view.flag f := rfl

/-- Settles O46: the three LOOP rows by what they look at beside CX, and JCXZ, which does not
count. -/
theorem loops : Obligations.Loops := by
  unfold Obligations.Loops
  refine fun s _ d => ⟨fun i op taken hrow => ?_, ?_⟩
  · rcases hrow with ⟨rfl, rfl, htaken⟩ | ⟨rfl, rfl, htaken⟩ | ⟨rfl, rfl, htaken⟩
    · refine runs_loop (htaken.trans ?_) rfl rfl
      rw [Bool.and_eq_true, Bool.not_eq_true', State.cxLeft_countCx_iff, State.flag_countCx]
    · refine runs_loop (htaken.trans ?_) rfl rfl
      rw [Bool.and_eq_true, State.cxLeft_countCx_iff, State.flag_countCx]
    · exact runs_loop (htaken.trans s.cxLeft_countCx_iff.symm) rfl rfl
  · exact runs_jumpIf beq_iff_eq.symm (.refl s) rfl rfl rfl

/-! ## Interrupts (43_control_transfer.md R365 to R368; 60_exceptions.md R410) -/

/-- Settles O47: the three rows enter by `interrupt`, INTO if OF is set. -/
theorem softwareInterrupts : Obligations.SoftwareInterrupts := by
  unfold Obligations.SoftwareInterrupts
  refine fun s h => ⟨fun n => ⟨rfl, _, rfl, .interrupt h n _⟩, ⟨rfl, _, rfl, .interrupt h 3#8 _⟩,
    fun hof => ?_, fun hof => ?_⟩
  · have hx : exec .into s = .next (s.interrupt 4#8 (s.nextIp .into)) :=
      congrArg Host.Outcome.next (if_pos hof)
    exact ⟨rfl, _, hx, .interrupt h 4#8 _⟩
  · have hx : exec .into s = .next (s.advance .into) :=
      congrArg Host.Outcome.next (if_neg (Bool.eq_false_iff.1 hof))
    exact .of_shows rfl hx (.refl s) rfl

/-- Settles O48: FLAGS is the third word popped, through the write rule. -/
theorem interruptReturnRow : Obligations.InterruptReturnRow := by
  unfold Obligations.InterruptReturnRow
  intro s h
  refine ⟨rfl, _, rfl, State.view_interruptReturn h.1, ?_, by simp [Keeps]⟩
  have hfl : s.pop.2.pop.2.pop.1 = s.view.drop.drop.top s.cfg := by
    rw [State.fst_pop_pop, State.view_pop]
    rfl
  rw [← hfl]
  rfl

/-! ## HLT (43_control_transfer.md R369; 60_exceptions.md R541) -/

/-- HLT has no ModRM byte and is in no group, so only its own row can be taken out. -/
theorem parameterFault_hlt {c : Config} (h : ⟨0xF4#8, none⟩ ∉ c.removedRows) (rest : List Byte) :
    parameterFault c [] (0xF4#8 :: rest) = none := by
  have hmem : ¬((hasModrm 0xF4#8 = true ∧ modField (rest.headD 0) ≠ 3#2) ∧
      rowOf 0xF4#8 (rest.headD 0) ∈ c.regOnlyRows) := fun hm => absurd hm.1.1 (by decide)
  have hrow : rowOf 0xF4#8 (rest.headD 0) ∉ c.removedRows := h
  exact (parameterFault_eq c [] (0xF4#8 :: rest)).trans ((if_neg hmem).trans (if_neg hrow))

/-- A step at HLT adds its trace record and nothing else. -/
theorem step_hlt {s : State} (hidle : CycleIdle s) (hfault : s.faultStatus = false)
    (hbyte : s.readMem8 s.regs.cs s.regs.ip = 0xF4#8) (hsched : s.schedule = [])
    (hrow : ⟨0xF4#8, none⟩ ∉ s.cfg.removedRows) : step s = .next (s.trace .hlt) := by
  have hfirst : s.fetchByte 0 = 0xF4#8 := by simpa [State.fetchByte, hidle.2] using hbyte
  obtain ⟨rest, hfetch⟩ : ∃ rest, s.fetchBytes = 0xF4#8 :: rest := ⟨_, by rw [← hfirst]; rfl⟩
  have hps := afterPrefixes_nil hidle (by rw [hfirst]; rfl)
  have hdec : decode s.fetchBytes = .ok (.hlt, rest) := by rw [hfetch]; rfl
  have hpar : parameterFault s.cfg [] s.fetchBytes = none := hfetch ▸ parameterFault_hlt hrow rest
  rw [step_afterPrefixes hsched hfault hps hdec hpar]
  exact congrArg Host.Outcome.next (idleCycle_of_idle (s := s.trace .hlt) hidle)

theorem State.deliverInterrupt_of_masked {s : State} (h : getFlag .ifl s.regs.flags = false) :
    s.deliverInterrupt = s := by
  simp [State.deliverInterrupt, h]

/-- Settles O50: the record leaves CS:IP, memory and FLAGS, so what finished the machine stays. -/
theorem haltStays : Obligations.HaltStays := by
  unfold Obligations.HaltStays
  refine ⟨fun s => ⟨rfl, s, rfl, .refl s⟩, fun s ⟨_, hidle⟩ hfin hsched hrow => ?_⟩
  have ⟨hfault, hbyte, hmasked⟩ := hfin
  have hstep := step_hlt hidle hfault hbyte hsched hrow
  rw [State.trace, hidle.1] at hstep
  exact ⟨hstep, hfin, congrArg Host.Outcome.next (State.deliverInterrupt_of_masked hmasked)⟩

end Sys2Proof.Machine
end

section
/-! What a return finds after a call: the words pushed, where the stack can be written, and so the
registers there were (43_control_transfer.md R335, R336, R338, R340). -/

namespace Sys2Proof.Machine

/-! ## Words of one segment (20_memory.md R84, R89) -/

/-- Two offsets of a segment are less than 2^16 apart, so they never share an address. -/
theorem linear_ne (c : Config) (seg : Word) {a b : Word} (h : a ≠ b) :
    linear c seg a ≠ linear c seg b := by
  have hne : a.toNat ≠ b.toNat := mt BitVec.eq_of_toNat_eq h
  have ha := a.isLt
  have hb := b.isLt
  unfold linear
  dsimp only
  split <;> omega

section Stores

variable {c : Config} {seg : Word} (v : View)

theorem View.load8_store8_same {off : Word} (b : Byte)
    (hw : writable c (linear c seg off) = true) :
    (v.store8 c seg off b).load8 c seg off = b := if_pos ⟨rfl, hw⟩

theorem View.load8_store8_ne {off a : Word} (b : Byte) (h : a ≠ off) :
    (v.store8 c seg off b).load8 c seg a = v.load8 c seg a :=
  if_neg fun hl => linear_ne c seg h hl.1

theorem View.load16_store16_same {off : Word} (w : Word)
    (hlo : writable c (linear c seg off) = true)
    (hhi : writable c (linear c seg (off + 1#16)) = true) :
    (v.store16 c seg off w).load16 c seg off = w := by
  have hne : off ≠ off + 1#16 := by bv_omega
  rw [View.load16, View.store16, View.load8_store8_same _ _ hhi, View.load8_store8_ne _ _ hne,
    View.load8_store8_same _ _ hlo, ← loByte_eq_extract, ← hiByte_eq_extract, ← wordOf_eq_append,
    wordOf_lo_hi]

/-- A word store leaves the word two bytes above it. -/
theorem View.load16_store16_above (off w : Word) :
    (v.store16 c seg off w).load16 c seg (off + 2#16) = v.load16 c seg (off + 2#16) := by
  have h0 : off + 2#16 ≠ off := by bv_omega
  have h1 : off + 2#16 ≠ off + 1#16 := by bv_omega
  have h2 : off + 2#16 + 1#16 ≠ off := by bv_omega
  have h3 : off + 2#16 + 1#16 ≠ off + 1#16 := by bv_omega
  rw [View.load16, View.store16, View.load8_store8_ne _ _ h1, View.load8_store8_ne _ _ h0,
    View.load8_store8_ne _ _ h3, View.load8_store8_ne _ _ h2]
  rfl

end Stores

/-! ## Pops after pushes (40_data_transfer.md R210) -/

/-- The word that `push` writes is what `pop` reads, where its two bytes can be written. -/
theorem View.top_push {c : Config} (v : View) (w : Word)
    (hlo : writable c (linear c (v.seg .ss) (v.gen .sp - 2#16)) = true)
    (hhi : writable c (linear c (v.seg .ss) (v.gen .sp - 1#16)) = true) :
    (v.push c w).top c = w := by
  have hoff : v.gen .sp - 1#16 = v.gen .sp - 2#16 + 1#16 := by bv_omega
  exact View.load16_store16_same _ w hlo (hoff ▸ hhi)

/-- `pop` takes SP back to where it was before `push`. -/
theorem View.gen_drop_push (c : Config) (v : View) (w : Word) : (v.push c w).drop.gen = v.gen := by
  funext q
  have hdrop : (v.push c w).drop.gen q =
      if q = .sp then v.gen .sp - 2#16 + 2#16
      else if q = .sp then v.gen .sp - 2#16 else v.gen q := rfl
  rw [hdrop, BitVec.sub_add_cancel]
  split
  case isTrue hq => rw [hq]
  case isFalse => rfl

/-- What lay on the stack before a push is there after the pop, writable or not. -/
theorem View.top_drop_push (c : Config) (v : View) (w : Word) :
    (v.push c w).drop.top c = v.top c := by
  have hsp : v.gen .sp = v.gen .sp - 2#16 + 2#16 := (BitVec.sub_add_cancel _ _).symm
  have habove := View.load16_store16_above (c := c) (seg := v.seg .ss)
    (v.setGen .sp (v.gen .sp - 2#16)) (v.gen .sp - 2#16) w
  rw [← hsp] at habove
  rw [View.top, View.gen_drop_push]
  exact habove

theorem View.gen_drop_drop_push_push (c : Config) (v : View) (w x : Word) :
    ((v.push c w).push c x).drop.drop.gen = v.gen := by
  rw [View.drop, View.setGen, View.gen_drop_push]
  exact View.gen_drop_push c v w

/-! ## The registers that a view fixes -/

theorem Shows.cfg_eq {s t : State} {v : View} (h : Shows s t v) : t.cfg = s.cfg := by
  obtain ⟨-, -, -, -, hcfg, -⟩ := h
  exact hcfg

/-- The register file is what a view shows of it and the reserved bits of FLAGS. -/
theorem Shows.regs_eq {s t : State} {v : View} (h : Shows s t v) (hgen : v.gen = s.view.gen)
    (hseg : v.seg = s.view.seg) (hflag : v.flag = s.view.flag) {w : Word} (hip : v.ip = w) :
    t.regs = { s.regs with ip := w } := by
  subst hip
  obtain ⟨rfl, hreserved, -⟩ := h
  refine Regs.ext_slot fun q => ?_
  cases q with
  | gen r => exact (congrFun hgen r).trans (by cases r <;> rfl)
  | seg r => exact (congrFun hseg r).trans (by cases r <;> rfl)
  | ip => rfl
  | flags =>
    refine BitVec.eq_of_getLsbD_eq fun n _ => ?_
    by_cases hn : ∃ f : Flag, f.pos = n
    · obtain ⟨f, rfl⟩ := hn
      exact congrFun hflag f
    · exact hreserved n fun f hf => hn ⟨f, hf⟩

/-! ## A call and its return (43_control_transfer.md R335, R336, R338, R340) -/

section CallAndReturn

variable {s : State} (h : CpuOk s)
  (hw1 : writable s.cfg (linear s.cfg s.regs.ss (s.regs.sp - 1#16)) = true)
  (hw2 : writable s.cfg (linear s.cfg s.regs.ss (s.regs.sp - 2#16)) = true)
include h hw1 hw2

theorem ret_undoes_callJw (d : Word) :
    ∃ t u, exec (.callJw d) s = .next t ∧ exec .ret t = .next u ∧
      u.regs = { s.regs with ip := past s (encode (.callJw d)) } := by
  obtain ⟨-, t, hcall, ht⟩ := runs_callJw h d
  obtain ⟨-, u, hret, hu⟩ := runs_ret t
  have hsu := ht.trans hu
  rw [ht.1, ht.cfg_eq] at hsu
  have hgen := View.gen_drop_push s.cfg s.view (past s (encode (.callJw d)))
  have htop := View.top_push s.view (past s (encode (.callJw d))) hw2 hw1
  exact ⟨t, u, hcall, hret, hsu.regs_eq hgen rfl rfl htop⟩

/-- CS lies above the return offset, so the second pop finds it. -/
theorem retf_undoes_callAp
    (hw3 : writable s.cfg (linear s.cfg s.regs.ss (s.regs.sp - 3#16)) = true)
    (hw4 : writable s.cfg (linear s.cfg s.regs.ss (s.regs.sp - 4#16)) = true) (off seg : Word) :
    ∃ t u, exec (.callAp off seg) s = .next t ∧ exec .retf t = .next u ∧
      u.regs = { s.regs with ip := past s (encode (.callAp off seg)) } := by
  obtain ⟨-, t, hcall, ht⟩ := runs_callAp h off seg
  obtain ⟨-, u, hret, hu⟩ := runs_retf t
  have hsu := ht.trans hu
  rw [ht.1, ht.cfg_eq] at hsu
  have hsp3 : s.regs.sp - 2#16 - 1#16 = s.regs.sp - 3#16 := by bv_omega
  have hsp4 : s.regs.sp - 2#16 - 2#16 = s.regs.sp - 4#16 := by bv_omega
  rw [← hsp3] at hw3
  rw [← hsp4] at hw4
  have hgen := View.gen_drop_drop_push_push s.cfg s.view (s.view.seg .cs)
    (past s (encode (.callAp off seg)))
  have hip := View.top_push (s.view.push s.cfg (s.view.seg .cs)) (past s (encode (.callAp off seg)))
    hw4 hw3
  have hcs := (View.top_drop_push s.cfg (s.view.push s.cfg (s.view.seg .cs))
    (past s (encode (.callAp off seg)))).trans (View.top_push s.view _ hw2 hw1)
  refine ⟨t, u, hcall, hret, hsu.regs_eq hgen (funext fun q => ?_) rfl hip⟩
  cases q with
  | cs => exact hcs
  | es | ss | ds => rfl

end CallAndReturn

/-- Settles O43: the return pops what the call pushed. -/
theorem returnsUndoCalls : Obligations.ReturnsUndoCalls := by
  unfold Obligations.ReturnsUndoCalls
  exact fun s h hw => ⟨ret_undoes_callJw h (hw 0 (by decide)) (hw 1 (by decide)),
    retf_undoes_callAp h (hw 0 (by decide)) (hw 1 (by decide)) (hw 2 (by decide))
      (hw 3 (by decide))⟩

end Sys2Proof.Machine
end

section
/-! The flag instructions and NOP (44_flag_control.md R380 to R387): each by the effect of its write
of one flag and then the move of IP. -/

namespace Sys2Proof.Machine

/-- An instruction that writes one flag and then moves IP. -/
theorem advances_setFlag {s : State} (h : CpuOk s) {i : Instr} {bytes : List Byte} {f : Flag}
    {b : Bool} (he : encode i = bytes) (hx : exec i s = .next ((s.setFlag f b).advance i)) :
    Advances s i bytes (s.view.setFlag f b) :=
  .of_shows he hx (.setFlag h f b) (by simp)

/-- Settles O51: seven rows write one flag each, and NOP only moves IP. -/
theorem flagInstructions : Obligations.FlagInstructions := by
  unfold Obligations.FlagInstructions
  intro s h
  refine ⟨?clc, ?stc, ?cmc, ?cli, ?sti, ?cld, ?std, ?nop⟩
  case nop => exact .of_shows rfl rfl (.refl s) rfl
  all_goals exact advances_setFlag h rfl rfl

end Sys2Proof.Machine
end

section
/-! The interrupt controller (60_exceptions.md R461 to R464, R475 to R477): its two ports, the
initialisation sequence, requests and their acknowledgement. -/

namespace Sys2Proof.Machine

/-! ## The two ports (60_exceptions.md R461, R464) -/

section Ports

variable {p : Pic} {v : Byte}

theorem Pic.writeCommand_icw1 (h : v.getLsbD 4 = true) : p.writeCommand v = p.icw1 v := if_pos h

theorem Pic.writeCommand_ocw2 (h4 : v.getLsbD 4 = false) (h3 : v.getLsbD 3 = false) :
    p.writeCommand v = p.ocw2 v := by
  simp only [Pic.writeCommand, h4, h3, Bool.false_eq_true, if_false]

theorem Pic.writeCommand_ocw3 (h4 : v.getLsbD 4 = false) (h3 : v.getLsbD 3 = true) :
    p.writeCommand v = p.ocw3 v := by
  simp only [Pic.writeCommand, h4, h3, Bool.false_eq_true, if_false, if_true]

theorem Pic.writeData_icw2 (h : p.stage = .expectIcw2) : p.writeData v =
    { p with
      vectorBase := v &&& 0xF8#8
      stage := if p.single then (if p.needIcw4 then .expectIcw4 else .done) else .expectIcw3 } := by
  cases hs : p.single <;> simp [Pic.writeData, h, hs]

theorem Pic.writeData_icw3 (h : p.stage = .expectIcw3) : p.writeData v =
    { p with cascade := v, stage := if p.needIcw4 then .expectIcw4 else .done } := by
  simp [Pic.writeData, h]

theorem Pic.writeData_icw4 (h : p.stage = .expectIcw4) : p.writeData v =
    { p with
      autoEoi := v.getLsbD 1, buffered := v.getLsbD 3, nested := v.getLsbD 4, stage := .done } := by
  simp [Pic.writeData, h]

theorem Pic.writeData_mask (h : p.stage = .idle ∨ p.stage = .done) :
    p.writeData v = { p with imr := v } := by
  rcases h with h | h <;> simp [Pic.writeData, h]

end Ports

/-- Settles O53: bits 4 and 3 tell the command words apart, the stage the data words. -/
theorem controllerWrites : Obligations.ControllerWrites := by
  unfold Obligations.ControllerWrites
  exact fun p v => ⟨Pic.writeCommand_icw1, Pic.writeCommand_ocw2, Pic.writeCommand_ocw3,
    Pic.writeData_icw2, Pic.writeData_icw3, Pic.writeData_icw4, Pic.writeData_mask⟩

/-! ## The initialisation sequence (60_exceptions.md R462) -/

@[simp] theorem Pic.irr_writeData (p : Pic) (v : Byte) : (p.writeData v).irr = p.irr := by
  unfold Pic.writeData; split <;> rfl

@[simp] theorem Pic.isr_writeData (p : Pic) (v : Byte) : (p.writeData v).isr = p.isr := by
  unfold Pic.writeData; split <;> rfl

/-- Settles O54: SNGL and IC4 of ICW1 decide at which data write the stage is `done`. -/
theorem initialisationSequence : Obligations.InitialisationSequence := by
  unfold Obligations.InitialisationSequence
  intro p w1 w2 w3 w4 w5 h1
  have ha := Pic.writeCommand_icw1 (p := p) h1
  dsimp only
  simp only [Pic.irr_writeData, Pic.isr_writeData]
  rw [ha, Pic.icw1]
  refine ⟨rfl, rfl, rfl, rfl, ?two, ?icw4, ?icw3, ?four⟩
  all_goals
    intro hsngl hic4
    rw [hsngl, hic4]
  case two => exact ⟨rfl, rfl, rfl⟩
  case icw4 | icw3 => exact ⟨rfl, rfl, rfl, rfl⟩
  case four => exact ⟨rfl, rfl, rfl, rfl, rfl⟩

/-! ## Requests (60_exceptions.md R475) -/

theorem getLsbD_byteBit {i : Nat} (hi : i < 8) (n : Nat) :
    (1#8 <<< i).getLsbD n = decide (n = i) := by
  rw [BitVec.getLsbD_shiftLeft, BitVec.getLsbD_one, Bool.eq_iff_iff]
  simp only [Bool.and_eq_true, Bool.not_eq_true', decide_eq_true_iff, decide_eq_false_iff_not]
  omega

theorem getLsbD_clearBit (b : Byte) {i : Nat} (hi : i < 8) (n : Nat) :
    (b &&& ~~~(1#8 <<< i)).getLsbD n = (b.getLsbD n && decide (n ≠ i)) := by
  rw [BitVec.getLsbD_and, BitVec.getLsbD_not, getLsbD_byteBit hi]
  by_cases hn : n < 8
  · simp [hn]
  · simp [BitVec.getLsbD_of_ge _ _ (Nat.le_of_not_lt hn)]

theorem Pic.irr_setInterrupt (p : Pic) (irq n : Nat) :
    (p.setInterrupt irq).irr.getLsbD n =
      (p.irr.getLsbD n || (decide (n = irq ∧ irq < 8) && !p.imr.getLsbD irq)) := by
  unfold Pic.setInterrupt
  split
  next h =>
    rw [BitVec.getLsbD_or, getLsbD_byteBit h.1]
    simp only [h, and_true, Bool.not_false, Bool.and_true]
  next h =>
    by_cases hirq : irq < 8
    · have hmasked : p.imr.getLsbD irq = true := by simpa [hirq] using h
      simp [hmasked]
    · simp [hirq]

/-! ## Acknowledgement (60_exceptions.md R476, R477) -/

theorem Pic.getLsbD_pending (p : Pic) (n : Nat) :
    p.pending.getLsbD n = (p.irr.getLsbD n && !p.imr.getLsbD n) := by
  by_cases hn : n < 8
  · simp [Pic.pending, hn]
  · simp [Pic.pending, BitVec.getLsbD_of_ge _ _ (Nat.le_of_not_lt hn)]

theorem lowestBit_eq {b : Byte} {i : Nat} (hi : i < 8) (hset : b.getLsbD i = true)
    (hlow : ∀ j, j < i → b.getLsbD j = false) : lowestBit b = i := by
  unfold lowestBit
  interval_cases i <;> simp only [hset, hlow, Nat.reduceLT, Bool.false_eq_true, if_false, if_true]

theorem Pic.intr_iff (p : Pic) :
    p.intr = true ↔
      p.isr = 0#8 ∧ ∃ i, i < 8 ∧ p.irr.getLsbD i = true ∧ p.imr.getLsbD i = false := by
  have hpending : p.pending ≠ 0#8 ↔ ∃ i, i < 8 ∧ p.pending.getLsbD i = true := by
    rw [not_iff_comm, BitVec.eq_of_getLsbD_eq_iff]
    simp
  simp only [Pic.getLsbD_pending, Bool.and_eq_true, Bool.not_eq_true'] at hpending
  rw [← hpending, Pic.intr, Bool.and_eq_true, beq_iff_eq, bne_iff_ne]
  rfl

/-- `lowestBit` of the pending requests is the lowest pending unmasked line. -/
theorem Pic.acknowledge_lowest {p : Pic} {i : Nat} (hi : i < 8) (hisr : p.isr = 0#8)
    (hirr : p.irr.getLsbD i = true) (himr : p.imr.getLsbD i = false)
    (hlow : ∀ j, j < i → p.irr.getLsbD j = true → p.imr.getLsbD j = true) :
    p.acknowledge = (some (p.vectorBase ||| BitVec.ofNat 8 i),
      { p with irr := p.irr &&& ~~~(1#8 <<< i), isr := 1#8 <<< i }) := by
  have hline : lowestBit p.pending = i := by
    refine lowestBit_eq hi (by simp [Pic.getLsbD_pending, hirr, himr]) fun j hj => ?_
    cases hrequest : p.irr.getLsbD j
    · simp [Pic.getLsbD_pending, hrequest]
    · simp [Pic.getLsbD_pending, hlow j hj hrequest]
  rcases p.acknowledge_cases with ⟨hnot, -⟩ | ⟨-, -, hack⟩
  · exact absurd (p.intr_iff.2 ⟨hisr, i, hi, hirr, himr⟩) (by simp [hnot])
  · rwa [hline] at hack

theorem Pic.acknowledge_none {p : Pic}
    (h : p.isr ≠ 0#8 ∨ ∀ j, j < 8 → p.irr.getLsbD j = true → p.imr.getLsbD j = true) :
    p.acknowledge = (none, p) := by
  refine if_neg ?_
  rw [p.intr_iff]
  rintro ⟨hisr, i, hi, hirr, himr⟩
  rcases h with hbusy | hmasked
  · exact hbusy hisr
  · simp [hmasked i hi hirr] at himr

/-- A line number fits below a vector base whose low three bits are clear (10_state.md R48). -/
theorem vector_eq_add {base : Byte} (h : base &&& 0x07#8 = 0) {i : Nat} (hi : i < 8) :
    base ||| BitVec.ofNat 8 i = base + BitVec.ofNat 8 i := by
  have hline : 0x07#8 &&& BitVec.ofNat 8 i = BitVec.ofNat 8 i := by
    interval_cases i <;> rfl
  refine (BitVec.add_eq_or_of_and_eq_zero _ _ ?_).symm
  rw [← hline, ← BitVec.and_assoc, h]
  exact BitVec.zero_and

/-- Settles O55: a request bit by bit, then the two answers of the acknowledgement. -/
theorem requestsAndAcknowledge : Obligations.RequestsAndAcknowledge := by
  unfold Obligations.RequestsAndAcknowledge
  refine ⟨fun p irq => ⟨p.irr_setInterrupt irq, ?_⟩, fun p i hi hisr hirr himr hlow => ?_,
    fun p => Pic.acknowledge_none⟩
  · unfold Pic.setInterrupt
    split <;> rfl
  · exact ⟨_, Pic.acknowledge_lowest hi hisr hirr himr hlow, fun hok => vector_eq_add hok.1 hi,
      getLsbD_clearBit _ hi, getLsbD_byteBit hi, rfl⟩

end Sys2Proof.Machine
end

section
/-! The timer's registers (60_exceptions.md R501 to R507): the control word, the gate, a count
written and a count read back. -/

namespace Sys2Proof.Machine

/-! ## The control word (60_exceptions.md R501 to R503, R506) -/

@[simp] theorem Pit.get_set_same (p : Pit) (i : ChannelId) (c : Channel) :
    (p.set i c).get i = c := by cases i <;> rfl

theorem Pit.get_set_ne (p : Pit) {i j : ChannelId} (c : Channel) (h : j ≠ i) :
    (p.set i c).get j = p.get j := by
  cases i <;> cases j <;> simp_all [Pit.get, Pit.set]

@[simp] theorem Pit.p61_set (p : Pit) (i : ChannelId) (c : Channel) : (p.set i c).p61 = p.p61 := by
  cases i <;> rfl

theorem toNat_channelBits (v : Byte) : (v >>> 6).toNat = (v.extractLsb' 6 2).toNat := by
  have := v.isLt
  simp only [BitVec.toNat_ushiftRight, BitVec.extractLsb'_toNat, Nat.shiftRight_eq_div_pow]
  omega

theorem Pit.controlWord_of_none {v : Byte} (h : selectedChannel v = none) (p : Pit) :
    p.controlWord v = p := by rw [Pit.controlWord, h]

section Selected

variable {v : Byte} {i : ChannelId} (h : selectedChannel v = some i) (p : Pit)
include h

theorem Pit.controlWord_latch (ha : selectedAccess v = none) :
    p.controlWord v = p.set i (p.get i).setLatch := by rw [Pit.controlWord, h, ha]

/-- The channel as a control word programs it; modes 6 and 7 are 2 and 3 (60_exceptions.md R501). -/
theorem Pit.controlWord_program {a : AccessMode} {m : TimerMode} (ha : selectedAccess v = some a)
    (hm : timerModeOf (selectedMode v) = some m) :
    p.controlWord v = p.set i
      { p.get i with
        mode := m, access := a, out := m != .m0, latchArmed := false, writeHigh := false,
        readHigh := false, writeIncomplete := false, loadPending := false,
        triggerPending := false, counting := false, halfFirst := false, strobeArmed := false } := by
  simp only [Pit.controlWord, h, ha, Channel.setTimerMode, hm]
  rfl

theorem Pit.controlWord_selected : ∃ c, p.controlWord v = p.set i c := by
  rw [Pit.controlWord, h]
  cases selectedAccess v <;> exact ⟨_, rfl⟩

end Selected

/-- Settles O56: the fields of the word select the channel, the access mode and the mode. -/
theorem controlWords : Obligations.ControlWords := by
  unfold Obligations.ControlWords
  refine fun p v => ⟨fun hsc => Pit.controlWord_of_none ?_ p, fun i hi => ?_⟩
  · rw [selectedChannel, toNat_channelBits, hsc]
    rfl
  have hchannel : selectedChannel v = some i := by
    rw [selectedChannel, toNat_channelBits, hi]
    cases i <;> rfl
  obtain ⟨c, hc⟩ := Pit.controlWord_selected hchannel p
  refine ⟨fun j hj => by rw [hc, Pit.get_set_ne p c hj], by rw [hc, Pit.p61_set],
    fun hrw => ?_, fun a m ha hm => ?_⟩
  · have hlatch : selectedAccess v = none := by simp [selectedAccess, hrw]
    rw [Pit.controlWord_latch hchannel p hlatch, Pit.get_set_same]
    rfl
  · have haccess : selectedAccess v = some a := by cases a <;> simp [selectedAccess, ha]
    have hmode : timerModeOf (selectedMode v) = some m := by
      cases m with
      | m0 | m1 | m4 | m5 => simp [selectedMode, hm, timerModeOf]
      | m2 | m3 => rcases hm with hm | hm <;> simp [selectedMode, hm, timerModeOf]
    rw [Pit.controlWord_program hchannel p haccess hmode, Pit.get_set_same]

/-! ## The gate (60_exceptions.md R507) -/

theorem decide_edgeTriggers (m : TimerMode) :
    decide (m ∈ [TimerMode.m1, .m2, .m3, .m5]) = m.edgeTriggers := by cases m <;> rfl

theorem decide_fallRaises (m : TimerMode) : decide (m ∈ [TimerMode.m2, .m3]) = m.fallRaises := by
  cases m <;> rfl

theorem Channel.putGate_same (c : Channel) : c.putGate c.gate = c := by
  simp [Channel.putGate]

/-- Settles O58: a level of 0 or 1 is a gate, and its edge is what `putGate` looks at. -/
theorem gateEdges : Obligations.GateEdges := by
  unfold Obligations.GateEdges
  refine fun ch level => ⟨fun hlevel => ?above, fun hlevel => ?same, fun hlevel hgate => ?rising,
    fun hlevel hgate => ?falling⟩
  case above =>
    obtain ⟨k, rfl⟩ : ∃ k, level = k + 2 := ⟨level - 2, by omega⟩
    rfl
  case same =>
    subst hlevel
    have hput : ch.setGate ch.gate.toNat = ch.putGate ch.gate := by cases ch.gate <;> rfl
    rw [hput, Channel.putGate_same]
  case rising =>
    subst hlevel
    rw [decide_edgeTriggers]
    simp [Channel.setGate, Channel.putGate, hgate]
  case falling =>
    subst hlevel
    rw [decide_fallRaises]
    simp [Channel.setGate, Channel.putGate, hgate]

/-! ## A tick (60_exceptions.md R510) -/

/-- All that a tick can write. -/
theorem Channel.tick_fields (c : Channel) :
    ∃ out counter load trigger counting half strobe, c.tick =
      { c with
        out := out, counter := counter, loadPending := load, triggerPending := trigger,
        counting := counting, halfFirst := half, strobeArmed := strobe } := by
  have hend : ∃ out, c.endStrobe = { c with out := out } := by
    unfold Channel.endStrobe
    split <;> exact ⟨_, rfl⟩
  obtain ⟨out, hout⟩ := hend
  unfold Channel.tick Channel.countTick
  rw [hout]
  dsimp only
  repeat' split
  all_goals exact ⟨_, _, _, _, _, _, _, rfl⟩

theorem Channel.endStrobe_eq (c : Channel) :
    c.endStrobe = { c with out := c.mode.strobes || c.out } := by
  cases h : c.mode.strobes <;> simp [Channel.endStrobe, h]

section Tick

variable {c : Channel}

theorem Channel.tick_incomplete (h : c.writeIncomplete = true) :
    c.tick = { c with out := c.mode.strobes || c.out } := by
  simp [Channel.tick, Channel.endStrobe_eq, h]

theorem Channel.tick_load (hw : c.writeIncomplete = false)
    (hl : (c.loadPending || c.triggerPending) = true) :
    c.tick = { c with
      counter := c.setValue, counting := true, loadPending := false, triggerPending := false
      out := c.mode != .m1 && (c.mode.strobes || c.out)
      halfFirst := c.mode == .m3 || c.halfFirst
      strobeArmed := c.mode.strobes || c.strobeArmed } := by
  cases hm : c.mode <;>
    simp [Channel.tick, Channel.endStrobe_eq, Channel.loadTick, TimerMode.strobes, hw, hl, hm]

theorem Channel.tick_stopped (hw : c.writeIncomplete = false)
    (hl : (c.loadPending || c.triggerPending) = false) (hc : c.counting = false) :
    c.tick = { c with out := c.mode.strobes || c.out } := by
  simp [Channel.tick, Channel.endStrobe_eq, hw, hl, hc]

/-- The channel counts at the next tick: nothing is pending and the gate does not pause it. -/
def Channel.Running (c : Channel) : Prop :=
  c.writeIncomplete = false ∧ (c.loadPending || c.triggerPending) = false ∧ c.counting = true ∧
    (c.mode.gatePauses && !c.gate) = false

theorem Channel.Running.tick (h : c.Running) :
    c.tick = ({ c with out := c.mode.strobes || c.out } : Channel).countTick := by
  obtain ⟨hw, hl, hc, hg⟩ := h
  simp [Channel.tick, Channel.endStrobe_eq, hw, hl, hc, hg]

/-- Without a strobe the output is the counting's alone. -/
theorem Channel.Running.tick_eq_countTick (h : c.Running) (hm : c.mode.strobes = false) :
    c.tick = c.countTick := by
  rw [h.tick, hm]
  rfl

end Tick

/-! ## Counts written and read (60_exceptions.md R504 to R506) -/

/-- A complete write in modes 0, 2, 3 and 4 makes the next tick a load, whatever the gate. -/
theorem Channel.tick_complete (lowers : Bool) {c : Channel} (hm : c.mode.writeLoads = true)
    (hw : c.writeIncomplete = false) (v : Word) :
    let t := (Channel.complete lowers { c with setValue := v }).tick
    t.counter = v ∧ t.counting = true := by
  have hcomplete : ∃ out, Channel.complete lowers { c with setValue := v } =
      { c with setValue := v, loadPending := true, out := out } := by
    simp only [Channel.complete, hm, if_true]
    split <;> exact ⟨_, rfl⟩
  obtain ⟨out, hout⟩ := hcomplete
  have hload := Channel.tick_load
    (c := { c with setValue := v, loadPending := true, out := out }) hw rfl
  rw [hout, hload]
  exact ⟨rfl, rfl⟩

theorem TimerMode.writeLoads_of_ne {m : TimerMode} (h1 : m ≠ .m1) (h5 : m ≠ .m5) :
    m.writeLoads = true := by
  cases m with
  | m1 => exact absurd rfl h1
  | m5 => exact absurd rfl h5
  | m0 | m2 | m3 | m4 => rfl

/-- What a data read looks at beside the counter. -/
def Channel.readout (c : Channel) : AccessMode × Word × Bool × Bool :=
  (c.access, c.latch, c.latchArmed, c.readHigh)

theorem Channel.readout_tick (c : Channel) : c.tick.readout = c.readout := by
  obtain ⟨_, _, _, _, _, _, _, h⟩ := c.tick_fields
  rw [h]
  rfl

theorem Channel.readout_iterate_tick (n : Nat) (c : Channel) :
    (Channel.tick^[n] c).readout = c.readout :=
  (Function.Semiconj.iterate_right (gb := id) Channel.readout_tick n c).trans
    (congrFun (Function.iterate_id n) _)

/-- The first read of a latched LOHI channel. -/
theorem Channel.readByte_latched_low {c : Channel} {w : Word}
    (h : c.readout = (.lohi, w, true, false)) :
    c.readByte = (loByte w, { c with readHigh := true }) := by
  simp only [Channel.readout, Prod.mk.injEq] at h
  simp [Channel.readByte, h]

/-- The second read frees the latch. -/
theorem Channel.readByte_latched_high {c : Channel} {w : Word}
    (h : c.readout = (.lohi, w, true, true)) :
    c.readByte = (hiByte w, { c with readHigh := false, latchArmed := false }) := by
  simp only [Channel.readout, Prod.mk.injEq] at h
  simp [Channel.readByte, h]

theorem Channel.latched_count_read {c : Channel} (hl : c.latchArmed = false)
    (ha : c.access = .lohi) (hr : c.readHigh = false) (n m : Nat) :
    let l := Channel.tick^[n] c.setLatch
    let r := Channel.tick^[m] l.readByte.2
    l.readByte.1 = c.counter.extractLsb' 0 8 ∧ r.readByte.1 = c.counter.extractLsb' 8 8 ∧
      l.readByte.2.latchArmed = true ∧ r.readByte.2.latchArmed = false := by
  intro l r
  have hlatched : l.readout = (.lohi, c.counter, true, false) := by
    rw [Channel.readout_iterate_tick]
    simp [Channel.readout, Channel.setLatch, hl, ha, hr]
  have hlow := Channel.readByte_latched_low hlatched
  have hfirst : l.readByte.2.readout = (.lohi, c.counter, true, true) := by
    simp only [Channel.readout, Prod.mk.injEq] at hlatched
    simp [hlow, Channel.readout, hlatched]
  have hhigh : r.readByte = _ := Channel.readByte_latched_high
    ((Channel.readout_iterate_tick m _).trans hfirst)
  have harmed : l.readByte.2.latchArmed = true := congrArg (fun x => x.2.2.1) hfirst
  rw [← loByte_eq_extract, ← hiByte_eq_extract, hhigh]
  exact ⟨congrArg Prod.fst hlow, rfl, harmed, rfl⟩

/-- Settles O57: a complete write makes the next tick a load; ticks leave what a latched read looks
at. -/
theorem countsWrittenAndRead : Obligations.CountsWrittenAndRead := by
  unfold Obligations.CountsWrittenAndRead
  refine ⟨fun lowers ch lo hi h1 h5 hhigh hw => ?_,
    fun ch n m hl ha hr => Channel.latched_count_read hl ha hr n m⟩
  have hloads := TimerMode.writeLoads_of_ne h1 h5
  refine ⟨fun ha => ?_, fun ha => ?_, fun ha => ?_⟩
  · have hwrite : ch.writeByte lowers lo =
        Channel.complete lowers { ch with setValue := wordOf lo 0 } := by
      simp [Channel.writeByte, ha]
    rw [hwrite, ← wordOf_eq_append]
    exact (Channel.tick_complete lowers hloads hw _).1
  · have hwrite : ch.writeByte lowers hi =
        Channel.complete lowers { ch with setValue := wordOf 0 hi } := by
      simp [Channel.writeByte, ha]
    rw [hwrite, ← wordOf_eq_append]
    exact (Channel.tick_complete lowers hloads hw _).1
  · have hfirst : ch.writeByte lowers lo =
        { ch with
          setValue := wordOf lo (hiByte ch.setValue)
          writeHigh := true
          writeIncomplete := true } := by
      simp [Channel.writeByte, ha, hhigh]
    have hsecond : (ch.writeByte lowers lo).writeByte lowers hi =
        Channel.complete lowers { ch with setValue := wordOf lo hi } := by
      simp [Channel.writeByte, ha, hhigh, hw]
    rw [hsecond, ← wordOf_eq_append]
    refine ⟨?_, Channel.tick_complete lowers hloads hw _⟩
    rw [hfirst, Channel.tick_incomplete rfl]

end Sys2Proof.Machine
end

section
/-! The counting of the timer's modes (60_exceptions.md R510 to R515): the output and the counter at
every tick after a load. -/

namespace Sys2Proof.Machine

/-- The induction over ticks: a sequence of channels that starts here and passes by `tick`. -/
theorem Channel.iterate_tick_eq {f : Nat → Channel} {c : Channel} (hstart : f 0 = c)
    (htick : ∀ k, (f k).tick = f (k + 1)) (k : Nat) : Channel.tick^[k] c = f k := by
  induction k with
  | zero => exact hstart.symm
  | succ k ih => rw [Function.iterate_succ_apply', ih, htick]

/-! ## Counting down (60_exceptions.md R511, R512, R515) -/

theorem sub_ofNat_succ (v : Word) (k : Nat) :
    v - BitVec.ofNat 16 k - 1#16 = v - BitVec.ofNat 16 (k + 1) := by
  rw [BitVec.ofNat_add, sub_sub]

/-- The first zero of the counter is at tick v. -/
theorem sub_ofNat_eq_zero {v : Word} {k : Nat} (h : k ≤ v.toNat) :
    v - BitVec.ofNat 16 k = 0#16 ↔ v.toNat = k := by
  have := v.isLt
  rw [BitVec.toNat_eq, BitVec.toNat_sub, BitVec.toNat_ofNat, BitVec.toNat_ofNat]
  omega

/-! What tick k + 1 of the count v finds: each flag of the modes below is one of these. -/

theorem decide_le_or_zero (v : Word) (k : Nat) :
    (decide (v.toNat ≤ k) || decide (v - BitVec.ofNat 16 (k + 1) = 0#16)) =
      decide (v.toNat ≤ k + 1) := by
  by_cases hk : v.toNat ≤ k
  · simp [hk, Nat.le_succ_of_le hk]
  · simp only [hk, decide_false, Bool.false_or, decide_eq_decide,
      sub_ofNat_eq_zero (Nat.lt_of_not_le hk)]
    omega

theorem decide_lt_and_not_zero (v : Word) (k : Nat) :
    (decide (k < v.toNat) && !decide (v - BitVec.ofNat 16 (k + 1) = 0#16)) =
      decide (k + 1 < v.toNat) := by
  by_cases hk : k < v.toNat
  · simp only [hk, decide_true, Bool.true_and, ← decide_not, decide_eq_decide,
      sub_ofNat_eq_zero (Nat.succ_le_of_lt hk)]
    omega
  · have hk' : ¬k + 1 < v.toNat := by omega
    simp [hk, hk']

theorem decide_zero_and_lt (v : Word) (k : Nat) :
    (decide (v - BitVec.ofNat 16 (k + 1) = 0#16) && decide (k < v.toNat)) =
      decide (k + 1 = v.toNat) := by
  by_cases hk : k < v.toNat
  · simp only [hk, decide_true, Bool.and_true, decide_eq_decide,
      sub_ofNat_eq_zero (Nat.succ_le_of_lt hk)]
    omega
  · have hk' : ¬k + 1 = v.toNat := by omega
    simp [hk, hk']

theorem TimerMode.strobes_iff (m : TimerMode) : m.strobes = true ↔ m = .m4 ∨ m = .m5 := by
  cases m <;> simp [TimerMode.strobes]

section Countdown

variable {c : Channel} (h : c.Running)
include h

theorem Channel.Running.tick_m0 (hm : c.mode = .m0) :
    c.tick = { c with
      counter := c.counter - 1#16, out := c.out || decide (c.counter - 1#16 = 0#16) } := by
  rw [h.tick_eq_countTick (by rw [hm]; rfl)]
  by_cases hz : c.counter - 1#16 = 0#16 <;> simp [Channel.countTick, hm, hz]

theorem Channel.Running.tick_m1 (hm : c.mode = .m1) :
    c.tick = { c with
      counter := c.counter - 1#16, out := c.out || decide (c.counter - 1#16 = 0#16)
      counting := c.counting && !decide (c.counter - 1#16 = 0#16) } := by
  rw [h.tick_eq_countTick (by rw [hm]; rfl)]
  by_cases hz : c.counter - 1#16 = 0#16 <;> simp [Channel.countTick, hm, hz]

/-- The strobe of modes 4 and 5 starts where the counter comes to 0 with the strobe armed. -/
theorem Channel.Running.tick_strobe (hm : c.mode.strobes = true) :
    c.tick = { c with
      counter := c.counter - 1#16
      out := !(decide (c.counter - 1#16 = 0#16) && c.strobeArmed)
      strobeArmed := c.strobeArmed && !decide (c.counter - 1#16 = 0#16) } := by
  rw [h.tick, hm]
  rcases c.mode.strobes_iff.1 hm with hmode | hmode
  all_goals
    by_cases hz : c.counter - 1#16 = 0#16
    · cases c.strobeArmed <;> simp [Channel.countTick, hmode, hz]
    · simp [Channel.countTick, hmode, hz]

end Countdown

/-- Mode 0 with the output low, k ticks after the load of its counter. -/
def Channel.mode0At (c : Channel) (k : Nat) : Channel :=
  { c with counter := c.counter - BitVec.ofNat 16 k, out := decide (c.counter.toNat ≤ k) }

/-- Mode 1 with the output low, k ticks after the load: at 0 the counting stops. -/
def Channel.mode1At (c : Channel) (k : Nat) : Channel :=
  { c with
    counter := c.counter - BitVec.ofNat 16 (min k c.counter.toNat)
    out := decide (c.counter.toNat ≤ k)
    counting := decide (k < c.counter.toNat) }

/-- Modes 4 and 5 with the strobe armed, k ticks after the load: one low tick. -/
def Channel.strobeAt (c : Channel) (k : Nat) : Channel :=
  { c with
    counter := c.counter - BitVec.ofNat 16 k
    out := decide (k ≠ c.counter.toNat)
    strobeArmed := decide (k < c.counter.toNat) }

section Iterated

variable {c : Channel} (h : c.Running) (hv : 0 < c.counter.toNat)
include h hv

theorem Channel.Running.iterate_m0 (hm : c.mode = .m0) (ho : c.out = false) (k : Nat) :
    Channel.tick^[k] c = c.mode0At k := by
  refine Channel.iterate_tick_eq ?_ (fun k => ?_) k
  · have hout : decide (c.counter.toNat ≤ 0) = c.out := by simp [ho, hv.ne']
    simp only [Channel.mode0At, hout, BitVec.sub_zero]
  · have hrun : (c.mode0At k).Running := h
    rw [hrun.tick_m0 hm]
    simp only [Channel.mode0At, sub_ofNat_succ, decide_le_or_zero]

theorem Channel.Running.iterate_m1 (hm : c.mode = .m1) (ho : c.out = false) (k : Nat) :
    Channel.tick^[k] c = c.mode1At k := by
  obtain ⟨hw, hl, hc, -⟩ := id h
  refine Channel.iterate_tick_eq ?_ (fun k => ?_) k
  · have hout : decide (c.counter.toNat ≤ 0) = c.out := by simp [ho, hv.ne']
    have hcounting : decide (0 < c.counter.toNat) = c.counting := by simp [hc, hv]
    simp only [Channel.mode1At, hout, hcounting, Nat.zero_min, BitVec.sub_zero]
  · by_cases hk : k < c.counter.toNat
    · have hrun : (c.mode1At k).Running := ⟨hw, hl, decide_eq_true hk, by
        show (c.mode.gatePauses && _) = false
        rw [hm]
        rfl⟩
      rw [hrun.tick_m1 hm]
      simp only [Channel.mode1At, Nat.min_eq_left hk.le, Nat.min_eq_left (Nat.succ_le_of_lt hk),
        sub_ofNat_succ, decide_le_or_zero, decide_lt_and_not_zero]
    · have hstop : (c.mode1At k).counting = false := decide_eq_false hk
      rw [Channel.tick_stopped (c := c.mode1At k) hw hl hstop]
      have hmin : min k c.counter.toNat = min (k + 1) c.counter.toNat := by omega
      have hout : (c.mode.strobes || decide (c.counter.toNat ≤ k)) =
          decide (c.counter.toNat ≤ k + 1) := by
        rw [hm, decide_eq_true (by omega : c.counter.toNat ≤ k),
          decide_eq_true (by omega : c.counter.toNat ≤ k + 1)]
        rfl
      have hcounting : decide (k < c.counter.toNat) = decide (k + 1 < c.counter.toNat) := by
        rw [decide_eq_decide]
        omega
      simp only [Channel.mode1At, hmin, hout, hcounting]

theorem Channel.Running.iterate_strobe (hm : c.mode.strobes = true) (ho : c.out = true)
    (ha : c.strobeArmed = true) (k : Nat) :
    Channel.tick^[k] c = c.strobeAt k := by
  refine Channel.iterate_tick_eq ?_ (fun k => ?_) k
  · have hout : decide (0 ≠ c.counter.toNat) = c.out := by simp [ho, hv.ne]
    have harmed : decide (0 < c.counter.toNat) = c.strobeArmed := by simp [ha, hv]
    simp only [Channel.strobeAt, hout, harmed, BitVec.sub_zero]
  · have hrun : (c.strobeAt k).Running := h
    rw [hrun.tick_strobe hm]
    simp only [Channel.strobeAt, sub_ofNat_succ, decide_zero_and_lt, decide_lt_and_not_zero,
      ne_eq, decide_not]

end Iterated

/-- Settles O59: the load starts the count at the set value, and each mode counts it down. -/
theorem countdownModes : Obligations.CountdownModes := by
  unfold Obligations.CountdownModes
  intro ch k hset hw hl n t
  have hload := Channel.tick_load hw hl
  have hpos : 0 < ch.tick.counter.toNat := by
    rw [hload]
    bv_omega
  have hmode : ch.tick.mode = ch.mode := by rw [hload]
  refine ⟨fun hm hg ho => ?_, fun hm => ?_, fun hm => ?_⟩
  · have hrun : ch.tick.Running := by simp [hload, Channel.Running, hw, hm, hg]
    have hout : ch.tick.out = false := by simp [hload, hm, ho, TimerMode.strobes]
    have ht : t = _ := hrun.iterate_m0 hpos (hmode.trans hm) hout k
    rw [ht, hload]
    exact ⟨rfl, rfl⟩
  · have hrun : ch.tick.Running := by simp [hload, Channel.Running, hw, hm, TimerMode.gatePauses]
    have hout : ch.tick.out = false := by simp [hload, hm]
    have ht : t = _ := hrun.iterate_m1 hpos (hmode.trans hm) hout k
    rw [ht, hload]
    exact ⟨rfl, rfl, rfl⟩
  · have hstrobes : ch.mode.strobes = true := by
      rcases hm with ⟨hm, -⟩ | hm <;> rw [hm] <;> rfl
    have hrun : ch.tick.Running := by
      rcases hm with ⟨hm, hg⟩ | hm
      · simp [hload, Channel.Running, hw, hg]
      · simp [hload, Channel.Running, hw, hm, TimerMode.gatePauses]
    have hout : ch.tick.out = true := by
      rcases hm with ⟨hm, -⟩ | hm <;> simp [hload, hm, TimerMode.strobes]
    have harmed : ch.tick.strobeArmed = true := by simp [hload, hstrobes]
    have ht : t = _ := hrun.iterate_strobe hpos ((congrArg _ hmode).trans hstrobes) hout harmed k
    rw [ht, hload]
    exact ⟨rfl, rfl⟩

/-! ## Counting in periods (60_exceptions.md R513, R514) -/

/-- A tick starts a new period or goes on in the same one. -/
theorem succ_in_period {h : Nat} (hpos : 0 < h) (k : Nat) :
    (k % h + 1 = h ∧ (k + 1) % h = 0 ∧ (k + 1) / h = k / h + 1) ∨
      (k % h + 1 < h ∧ (k + 1) % h = k % h + 1 ∧ (k + 1) / h = k / h) := by
  have hdiv := Nat.mod_add_div k h
  rcases (Nat.succ_le_of_lt (Nat.mod_lt k hpos)).eq_or_lt with hend | hgo
  · have hunique := (Nat.div_mod_unique hpos (a := k + 1) (d := k / h + 1) (c := 0)).2
      ⟨by rw [Nat.mul_add]; omega, hpos⟩
    exact .inl ⟨hend, hunique.2, hunique.1⟩
  · have hunique := (Nat.div_mod_unique hpos (a := k + 1) (d := k / h) (c := k % h + 1)).2
      ⟨by omega, hgo⟩
    exact .inr ⟨hgo, hunique.2, hunique.1⟩

/-- Mode 2 with the output high, k ticks after the load of its counter. -/
def Channel.mode2At (c : Channel) (k : Nat) : Channel :=
  { c with
    counter := BitVec.ofNat 16 (c.setValue.toNat - k % c.setValue.toNat)
    out := decide (k % c.setValue.toNat ≠ c.setValue.toNat - 1) }

/-- The counter of mode 3 at tick j of a half-cycle of the count n. -/
def halfCycleCount (n j : Nat) : Nat := if j = 0 then n else n + n % 2 - 2 * j

/-- What the next tick takes off: 1 first in a half-cycle of an odd count, else 2. -/
def halfCycleStep (n j : Nat) : Nat := if j = 0 ∧ n % 2 = 1 then 1 else 2

theorem halfCycleCount_zero (n : Nat) : halfCycleCount n 0 = n := rfl

theorem halfCycleCount_succ (n j : Nat) :
    halfCycleCount n (j + 1) = n + n % 2 - 2 * (j + 1) := rfl

theorem halfCycleCount_lt {n : Nat} (hn : n < 2 ^ 16) (j : Nat) : halfCycleCount n j < 2 ^ 16 := by
  unfold halfCycleCount
  split <;> omega

theorem halfCycleStep_spec {n j : Nat} (hj : j < (n + 1) / 2) :
    halfCycleStep n j ≤ halfCycleCount n j ∧
      halfCycleCount n j - halfCycleStep n j = n + n % 2 - 2 * (j + 1) := by
  unfold halfCycleStep halfCycleCount
  split_ifs <;> omega

/-- Mode 3, k ticks after the load of its counter: the half-cycles take `(n + 1) / 2` ticks. -/
def Channel.mode3At (c : Channel) (k : Nat) : Channel :=
  let n := c.setValue.toNat
  let h := (n + 1) / 2
  { c with
    counter := BitVec.ofNat 16 (halfCycleCount n (k % h))
    out := c.out ^^ decide (k / h % 2 = 1)
    halfFirst := decide (k % h = 0) }

theorem Channel.withCounter_self {c : Channel} (h : c.counter = c.setValue) :
    { c with counter := c.setValue } = c := by
  cases c
  cases h
  rfl

/-- Every half-cycle comes to 0 at its last tick. -/
theorem Channel.mode3At_step (c : Channel) (hn : 1 ≤ c.setValue.toNat) (k : Nat) :
    let n := c.setValue.toNat
    (c.mode3At k).counter - (c.mode3At k).mode3Step =
      BitVec.ofNat 16 (n + n % 2 - 2 * (k % ((n + 1) / 2) + 1)) := by
  intro n
  have hodd : c.setValue.getLsbD 0 = decide (n % 2 = 1) := by simp [BitVec.getLsbD, n]
  have hstep : (c.mode3At k).mode3Step =
      BitVec.ofNat 16 (halfCycleStep n (k % ((n + 1) / 2))) := by
    simp only [Channel.mode3Step, Channel.mode3At, hodd, halfCycleStep, Bool.and_eq_true,
      decide_eq_true_iff]
    split <;> rfl
  obtain ⟨hle, hsub⟩ := halfCycleStep_spec (Nat.mod_lt k (by omega : 0 < (n + 1) / 2))
  have hlt : halfCycleStep n (k % ((n + 1) / 2)) < 2 ^ 16 := by
    unfold halfCycleStep
    split <;> decide
  rw [hstep, ← hsub]
  exact BitVec.ofNat_sub_ofNat_of_le _ _ hlt hle

section Periodic

variable {c : Channel} (h : c.Running)
include h

theorem Channel.Running.tick_m2_down (hm : c.mode = .m2) (hc : 2 < c.counter.toNat) :
    c.tick = { c with counter := c.counter - 1#16 } := by
  have h1 : c.counter - 1#16 ≠ 1#16 := by bv_omega
  have h0 : c.counter - 1#16 ≠ 0#16 := by bv_omega
  rw [h.tick_eq_countTick (by rw [hm]; rfl)]
  simp only [Channel.countTick, hm, h1, h0, if_false]

theorem Channel.Running.tick_m2_low (hm : c.mode = .m2) (hc : c.counter.toNat = 2) :
    c.tick = { c with counter := 1#16, out := false } := by
  have h1 : c.counter - 1#16 = 1#16 := by bv_omega
  rw [h.tick_eq_countTick (by rw [hm]; rfl)]
  simp only [Channel.countTick, hm, h1, if_true]

theorem Channel.Running.tick_m2_reload (hm : c.mode = .m2) (hc : c.counter.toNat = 1) :
    c.tick = { c with counter := c.setValue, out := true } := by
  have h0 : c.counter - 1#16 = 0#16 := by bv_omega
  rw [h.tick_eq_countTick (by rw [hm]; rfl)]
  simp [Channel.countTick, hm, h0]

theorem Channel.Running.tick_m3_toggle (hm : c.mode = .m3)
    (hz : c.counter - c.mode3Step = 0#16) :
    c.tick = { c with counter := c.setValue, out := !c.out, halfFirst := true } := by
  rw [h.tick_eq_countTick (by rw [hm]; rfl)]
  simp only [Channel.countTick, hm, hz, if_true]

theorem Channel.Running.tick_m3_down (hm : c.mode = .m3)
    (hz : c.counter - c.mode3Step ≠ 0#16) :
    c.tick = { c with counter := c.counter - c.mode3Step, halfFirst := false } := by
  rw [h.tick_eq_countTick (by rw [hm]; rfl)]
  simp only [Channel.countTick, hm, hz, if_false]

theorem Channel.Running.iterate_m2 (hm : c.mode = .m2) (hc : c.counter = c.setValue)
    (hn : 2 ≤ c.setValue.toNat) (ho : c.out = true) (k : Nat) :
    Channel.tick^[k] c = c.mode2At k := by
  have hlt := c.setValue.isLt
  refine Channel.iterate_tick_eq ?_ (fun k => ?_) k
  · have hout : decide (0 % c.setValue.toNat ≠ c.setValue.toNat - 1) = c.out := by
      rw [ho, decide_eq_true_iff, Nat.zero_mod]
      omega
    rw [Channel.mode2At, hout, Nat.zero_mod, Nat.sub_zero, BitVec.ofNat_toNat, BitVec.setWidth_eq]
    exact Channel.withCounter_self hc
  · have hrun : (c.mode2At k).Running := h
    have hcounter : (c.mode2At k).counter.toNat = c.setValue.toNat - k % c.setValue.toNat :=
      Nat.mod_eq_of_lt (by omega)
    rcases succ_in_period (by omega : 0 < c.setValue.toNat) k with
      ⟨hend, hmod, -⟩ | ⟨hgo, hmod, -⟩
    · rw [hrun.tick_m2_reload hm (by omega)]
      have hout : decide (0 ≠ c.setValue.toNat - 1) = true := by rw [decide_eq_true_iff]; omega
      simp only [Channel.mode2At, hmod, hout, Nat.sub_zero, BitVec.ofNat_toNat, BitVec.setWidth_eq]
    · by_cases hlow : k % c.setValue.toNat + 2 = c.setValue.toNat
      · rw [hrun.tick_m2_low hm (by omega)]
        have hout : decide (k % c.setValue.toNat + 1 ≠ c.setValue.toNat - 1) = false := by
          rw [decide_eq_false_iff_not]; omega
        have hone : c.setValue.toNat - (k % c.setValue.toNat + 1) = 1 := by omega
        simp only [Channel.mode2At, hmod, hout, hone]
      · rw [hrun.tick_m2_down hm (by omega)]
        have hout : decide (k % c.setValue.toNat ≠ c.setValue.toNat - 1) =
            decide (k % c.setValue.toNat + 1 ≠ c.setValue.toNat - 1) := by
          rw [decide_eq_decide]; omega
        have hsub := BitVec.ofNat_sub_ofNat_of_le (w := 16)
          (c.setValue.toNat - k % c.setValue.toNat) 1 (by decide) (by omega)
        simp only [Channel.mode2At, hmod, hout, hsub, Nat.sub_sub]

theorem Channel.Running.iterate_m2_one (hm : c.mode = .m2) (hc : c.counter = c.setValue)
    (hn : c.setValue.toNat = 1) (ho : c.out = true) (k : Nat) : Channel.tick^[k] c = c := by
  refine Function.iterate_fixed ?_ k
  rw [h.tick_m2_reload hm (hc ▸ hn), ← ho]
  exact Channel.withCounter_self hc

theorem Channel.Running.iterate_m3 (hm : c.mode = .m3) (hc : c.counter = c.setValue)
    (hn : 1 ≤ c.setValue.toNat) (hf : c.halfFirst = true) (k : Nat) :
    Channel.tick^[k] c = c.mode3At k := by
  have hlt := c.setValue.isLt
  refine Channel.iterate_tick_eq ?_ (fun k => ?_) k
  · simp only [Channel.mode3At, Nat.zero_mod, Nat.zero_div, halfCycleCount_zero,
      BitVec.ofNat_toNat, BitVec.setWidth_eq, decide_true, ← hf, Nat.zero_ne_one, decide_false,
      Bool.xor_false]
    exact Channel.withCounter_self hc
  · have hrun : (c.mode3At k).Running := h
    have hstep := c.mode3At_step hn k
    dsimp only at hstep
    rcases succ_in_period (by omega : 0 < (c.setValue.toNat + 1) / 2) k with
      ⟨hend, hmod, hdiv⟩ | ⟨hgo, hmod, hdiv⟩
    · have hzero : c.setValue.toNat + c.setValue.toNat % 2 -
          2 * (k % ((c.setValue.toNat + 1) / 2) + 1) = 0 := by omega
      rw [hzero] at hstep
      have htoggle : (!(c.out ^^ decide (k / ((c.setValue.toNat + 1) / 2) % 2 = 1))) =
          (c.out ^^ decide ((k / ((c.setValue.toNat + 1) / 2) + 1) % 2 = 1)) := by
        rcases Nat.mod_two_eq_zero_or_one (k / ((c.setValue.toNat + 1) / 2)) with hp | hp <;>
          simp [Nat.add_mod, hp]
      rw [hrun.tick_m3_toggle hm hstep]
      simp only [Channel.mode3At, hmod, hdiv, htoggle, halfCycleCount_zero, decide_true,
        BitVec.ofNat_toNat, BitVec.setWidth_eq]
    · have hne : BitVec.ofNat 16 (c.setValue.toNat + c.setValue.toNat % 2 -
          2 * (k % ((c.setValue.toNat + 1) / 2) + 1)) ≠ 0#16 := by
        rw [ne_eq, BitVec.toNat_eq, BitVec.toNat_ofNat, BitVec.toNat_ofNat]
        omega
      rw [hrun.tick_m3_down hm (hstep ▸ hne), hstep]
      simp only [Channel.mode3At, hmod, hdiv, halfCycleCount_succ, Nat.succ_ne_zero, decide_false]

end Periodic

/-- Settles O60: the load starts a period at the set value, and mode 3 keeps its output then. -/
theorem periodicModes : Obligations.PeriodicModes := by
  unfold Obligations.PeriodicModes
  intro ch k hw hg hl n t
  have hload := Channel.tick_load hw hl
  have hlt := ch.setValue.isLt
  have hrun : ch.tick.Running := by simp [hload, Channel.Running, hw, hg]
  have hcounter : ch.tick.counter = ch.tick.setValue := by rw [hload]
  have hset : ch.tick.setValue = ch.setValue := by rw [hload]
  have hmode : ch.tick.mode = ch.mode := by rw [hload]
  refine ⟨fun hm hn ho => ?_, fun hm hn ho => ?_, fun hm hn => ?_⟩
  · have hout : ch.tick.out = true := by simp [hload, hm, ho]
    have ht : t = _ := hrun.iterate_m2 (hmode.trans hm) hcounter (hset ▸ hn) hout k
    rw [ht, Channel.mode2At, hset]
    exact ⟨rfl, Nat.mod_eq_of_lt (by omega)⟩
  · have hout : ch.tick.out = true := by simp [hload, hm, ho]
    have ht : t = _ := hrun.iterate_m2_one (hmode.trans hm) hcounter (hset ▸ hn) hout k
    rw [ht, hcounter, hset]
    exact ⟨hout, BitVec.eq_of_toNat_eq hn⟩
  · have hout : ch.tick.out = ch.out := by simp [hload, hm, TimerMode.strobes]
    have ht : t = _ := hrun.iterate_m3 (hmode.trans hm) hcounter (hset ▸ hn)
      (by simp [hload, hm]) k
    rw [ht, Channel.mode3At, hset, hout]
    exact ⟨rfl, Nat.mod_eq_of_lt (halfCycleCount_lt hlt _)⟩

end Sys2Proof.Machine
end

section
/-! The emulation fault (60_exceptions.md R400, R403, R540): how it is taken, and what the host's
calls still do after it. -/

namespace Sys2Proof.Machine

/-! ## Taking the fault (60_exceptions.md R400) -/

/-- A cycle that ends in a fault leaves no override behind. -/
theorem idleCycle_of_afterPrefixes {s u : State} {ps : List SReg} (hidle : CycleIdle s)
    (h : AfterPrefixes s ps u) : u.idleCycle = s := by
  obtain ⟨-, -, rfl, -⟩ := h
  exact idleCycle_of_idle hidle

/-- No call of the host clears the fault status: `execute()` has no step, and an interrupt entry
keeps it. -/
theorem faultStatus_hostCall {c : HostCall} {s t : State} (hs : s.faultStatus = true)
    (h : hostCall c s = .next t) : t.faultStatus = true := by
  rcases hostCall_cases h with hx | rfl | ⟨p, rfl⟩ | ⟨p, rfl⟩ | rfl | ⟨v, -, rfl⟩
  · simp [(execute_next hx).1] at hs
  · exact hs
  · exact hs
  · exact hs
  · exact hs
  · rw [State.faultStatus_interrupt]
    exact hs

/-- Settles O20: the cycle after the prefixes refuses the bytes or finds the row taken out. -/
theorem emulationFaultTaken : Obligations.EmulationFaultTaken := by
  unfold Obligations.EmulationFaultTaken
  refine ⟨fun s u ps f hsched hfault hidle hps hbytes => ?_, fun s t c => faultStatus_hostCall⟩
  obtain ⟨n, hrun, hbyte, hcfg⟩ := execute_afterPrefixes hfault hps
  have hcycle : runCycle (n + 1) u = .next (u.idleCycle.emulationFault f) := by
    rcases hbytes with hdec | ⟨i, rest, hdec, hpar⟩
    · exact runCycle_refused hdec
    · refine runCycle_removed hdec hbyte ?_
      rwa [hcfg, prefixBytes_of_afterPrefixes hps]
  rw [step_execute hsched, hrun, hcycle, idleCycle_of_afterPrefixes hidle hps]
  rfl

/-! ## After the fault (60_exceptions.md R403, R540) -/

/-- Settles O21: the fault status stops `execute()` and a delivery; no other call looks at it. -/
theorem stuckAfterFault : Obligations.StuckAfterFault := by
  unfold Obligations.StuckAfterFault
  intro s hs
  have hexecute : execute s = .fault .executeAfterFault := if_pos hs
  have hdeliver : s.deliverInterrupt = s := if_pos hs
  exact ⟨hexecute, fun hsched => (step_execute hsched).trans hexecute,
    congrArg Host.Outcome.next hdeliver, rfl, fun irq => rfl, rfl, fun l => rfl, fun l => rfl⟩

end Sys2Proof.Machine
end

section
/-! Entering an interrupt and returning from it (60_exceptions.md R410 to R413, R420). -/

namespace Sys2Proof.Machine

/-! ## Delivery (60_exceptions.md R420) -/

theorem Pic.intr_of_acknowledge {p q : Pic} {v : Byte} (h : p.acknowledge = (some v, q)) :
    p.intr = true := by
  rcases p.acknowledge_cases with ⟨-, hnone⟩ | ⟨hintr, -⟩
  · simp [hnone] at h
  · exact hintr

theorem State.deliverInterrupt_enters {s : State} {v : Byte} {p : Pic}
    (hfault : s.faultStatus = false) (hif : getFlag .ifl s.regs.flags = true)
    (hack : s.pic.acknowledge = (some v, p)) :
    s.deliverInterrupt = State.interrupt { s with pic := p } v s.regs.ip := by
  simp [State.deliverInterrupt, hfault, hif, Pic.intr_of_acknowledge hack, hack]

theorem State.deliverInterrupt_of_none {s : State} (h : s.pic.acknowledge.1 = none) :
    s.deliverInterrupt = s := by
  have hintr : s.pic.intr = false := by
    rcases s.pic.acknowledge_cases with ⟨hnot, -⟩ | ⟨-, -, hsome⟩
    · exact hnot
    · simp [hsome] at h
  simp [State.deliverInterrupt, hintr]

/-- The view with another controller. -/
def View.withPic (v : View) (p : Pic) : View := { v with pic := p }

section WithPic

variable (c : Config) (v : View) (p : Pic)

theorem View.push_withPic (w : Word) : (v.withPic p).push c w = (v.push c w).withPic p := rfl

theorem View.setFlag_withPic (f : Flag) (b : Bool) :
    (v.withPic p).setFlag f b = (v.setFlag f b).withPic p := rfl

theorem View.load16_withPic (seg off : Word) :
    (v.withPic p).load16 c seg off = v.load16 c seg off := rfl

theorem View.seg_withPic : (v.withPic p).seg = v.seg := rfl

/-- An entry does not look at the controller. -/
theorem View.enter_withPic (flags : Word) (n : Byte) (ret : Word) :
    (v.withPic p).enter c flags n ret = (v.enter c flags n ret).withPic p := by
  simp only [View.enter, View.push_withPic, View.setFlag_withPic, View.load16_withPic,
    View.seg_withPic]
  rfl

end WithPic

/-- Settles O52: the entry is `interrupt` on the state that has the controller after the
acknowledgement. -/
theorem interruptDelivery : Obligations.InterruptDelivery := by
  unfold Obligations.InterruptDelivery
  refine fun s h => ⟨fun hfault hif v p hack => ⟨_, rfl, ?_⟩, fun hno => ?_⟩
  · have ⟨hview, hreserved, hkeeps⟩ := Shows.interrupt (s := { s with pic := p }) h v s.regs.ip
    rw [State.deliverInterrupt_enters hfault hif hack]
    exact ⟨hview.trans (s.view.enter_withPic s.cfg p _ v _), hreserved, hkeeps⟩
  · refine congrArg Host.Outcome.next ?_
    rcases hno with hfault | hmasked | hnone
    · exact if_pos hfault
    · exact State.deliverInterrupt_of_masked hmasked
    · exact State.deliverInterrupt_of_none hnone

/-! ## The return after an entry (60_exceptions.md R412, R413) -/

theorem View.top_drop (c : Config) (v : View) :
    v.drop.top c = v.load16 c (v.seg .ss) (v.gen .sp + 2#16) := rfl

theorem View.top_drop_drop (c : Config) (v : View) :
    v.drop.drop.top c = v.load16 c (v.seg .ss) (v.gen .sp + 4#16) := by
  rw [View.drop_drop]
  rfl

theorem View.gen_drop_drop_drop (v : View) (r : Reg16) :
    v.drop.drop.drop.gen r = if r = .sp then v.gen .sp + 6#16 else v.gen r := by
  rw [View.drop_drop, View.drop, View.setGen_setGen, View.gen_setGen_same, add_assoc]
  rfl

/-- A push leaves every word of the stack segment that lies apart from the one it writes. -/
theorem View.load16_push (c : Config) (v : View) (w : Word) {a : Word}
    (h1 : a ≠ v.gen .sp - 1#16) (h2 : a ≠ v.gen .sp - 2#16) (h3 : a ≠ v.gen .sp - 3#16) :
    (v.push c w).load16 c (v.seg .ss) a = v.load16 c (v.seg .ss) a := by
  have n0 : a ≠ v.gen .sp - 2#16 + 1#16 := by bv_omega
  have n1 : a + 1#16 ≠ v.gen .sp - 2#16 := by bv_omega
  have n2 : a + 1#16 ≠ v.gen .sp - 2#16 + 1#16 := by bv_omega
  rw [View.push, View.load16, View.store16, View.load8_store8_ne _ _ n0,
    View.load8_store8_ne _ _ h2, View.load8_store8_ne _ _ n2, View.load8_store8_ne _ _ n1]
  rfl

/-- The view when an entry has pushed its three words and not yet loaded CS and IP. -/
def View.entryStack (c : Config) (v : View) (flags ret : Word) : View :=
  ((((v.push c flags).setFlag .ifl false).setFlag .tf false).push c (v.seg .cs)).push c ret

section Entry

variable (c : Config) (v : View) (flags ret : Word)

theorem View.enter_eq (n : Byte) : ∃ cs ip, v.enter c flags n ret =
    { (v.entryStack c flags ret).setSeg .cs cs with ip := ip } := ⟨_, _, rfl⟩

theorem View.gen_push (w : Word) (r : Reg16) :
    (v.push c w).gen r = if r = .sp then v.gen .sp - 2#16 else v.gen r := rfl

theorem View.gen_entryStack (r : Reg16) :
    (v.entryStack c flags ret).gen r = if r = .sp then v.gen .sp - 6#16 else v.gen r := by
  have hsp : v.gen .sp - 2#16 - 2#16 - 2#16 = v.gen .sp - 6#16 := by bv_omega
  by_cases hr : r = .sp <;> simp [View.entryStack, View.gen_push, View.setFlag, hr, hsp]

theorem View.flag_entryStack (f : Flag) :
    (v.entryStack c flags ret).flag f = if f = .ifl ∨ f = .tf then false else v.flag f := by
  have hflag : (v.entryStack c flags ret).flag f =
      if f = .tf then false else if f = .ifl then false else v.flag f := rfl
  rw [hflag]
  by_cases ht : f = .tf <;> by_cases hi : f = .ifl <;> simp [ht, hi]

/-- The three words of an entry, where the six bytes below SP can be written. -/
theorem View.entryStack_words
    (hw : ∀ k : Nat, k < 6 →
      writable c (linear c (v.seg .ss) (v.gen .sp - BitVec.ofNat 16 (k + 1))) = true) :
    let u := v.entryStack c flags ret
    u.load16 c (v.seg .ss) (v.gen .sp - 6#16) = ret ∧
      u.load16 c (v.seg .ss) (v.gen .sp - 4#16) = v.seg .cs ∧
      u.load16 c (v.seg .ss) (v.gen .sp - 2#16) = flags := by
  have hw' : ∀ k : Nat, k < 6 → ∀ a, a = v.gen .sp - BitVec.ofNat 16 (k + 1) →
      writable c (linear c (v.seg .ss) a) = true := fun k hk a ha => ha ▸ hw k hk
  let first := ((v.push c flags).setFlag .ifl false).setFlag .tf false
  let second := first.push c (v.seg .cs)
  have hfirst : first.gen .sp = v.gen .sp - 2#16 := rfl
  have hsecond : second.gen .sp = v.gen .sp - 4#16 := by
    have : second.gen .sp = v.gen .sp - 2#16 - 2#16 := rfl
    bv_omega
  have hflags : first.load16 c (v.seg .ss) (v.gen .sp - 2#16) = flags :=
    View.top_push v flags (hw' 1 (by decide) _ rfl) (hw' 0 (by decide) _ rfl)
  have hcs : second.load16 c (v.seg .ss) (first.gen .sp - 2#16) = v.seg .cs :=
    View.top_push first _ (hw' 3 (by decide) _ (by rw [hfirst]; bv_omega))
      (hw' 2 (by decide) _ (by rw [hfirst]; bv_omega))
  have hret : (second.push c ret).load16 c (v.seg .ss) (second.gen .sp - 2#16) = ret :=
    View.top_push second ret (hw' 5 (by decide) _ (by rw [hsecond]; bv_omega))
      (hw' 4 (by decide) _ (by rw [hsecond]; bv_omega))
  have h4 : first.gen .sp - 2#16 = v.gen .sp - 4#16 := by rw [hfirst]; bv_omega
  have h6 : second.gen .sp - 2#16 = v.gen .sp - 6#16 := by rw [hsecond]; bv_omega
  rw [h4] at hcs
  rw [h6] at hret
  refine ⟨hret, ?_, ?_⟩
  · refine (View.load16_push c second ret ?_ ?_ ?_).trans hcs <;> rw [hsecond] <;> bv_omega
  · refine (View.load16_push c second ret ?_ ?_ ?_).trans
      ((View.load16_push c first _ ?_ ?_ ?_).trans hflags)
    all_goals
      simp only [hfirst, hsecond]
      bv_omega

theorem View.gen_enter (n : Byte) (r : Reg16) :
    (v.enter c flags n ret).gen r = if r = .sp then v.gen .sp - 6#16 else v.gen r :=
  v.gen_entryStack c flags ret r

theorem View.seg_enter (n : Byte) {r : SReg} (hr : r ≠ .cs) :
    (v.enter c flags n ret).seg r = v.seg r := if_neg hr

theorem View.flag_enter (n : Byte) (f : Flag) :
    (v.enter c flags n ret).flag f = if f = .ifl ∨ f = .tf then false else v.flag f :=
  v.flag_entryStack c flags ret f

theorem View.load16_enter (n : Byte) (seg off : Word) :
    (v.enter c flags n ret).load16 c seg off = (v.entryStack c flags ret).load16 c seg off := by
  obtain ⟨cs, ip, henter⟩ := v.enter_eq c flags ret n
  rw [henter]
  rfl

/-- What three pops find after an entry. -/
theorem View.enter_tops (n : Byte)
    (hw : ∀ k : Nat, k < 6 →
      writable c (linear c (v.seg .ss) (v.gen .sp - BitVec.ofNat 16 (k + 1))) = true) :
    let e := v.enter c flags n ret
    e.top c = ret ∧ e.drop.top c = v.seg .cs ∧ e.drop.drop.top c = flags := by
  intro e
  obtain ⟨hret, hcs, hflags⟩ := v.entryStack_words c flags ret hw
  have hsp : e.gen .sp = v.gen .sp - 6#16 := v.gen_enter c flags ret n .sp
  have hss : e.seg .ss = v.seg .ss := v.seg_enter c flags ret n (by decide)
  have h4 : v.gen .sp - 6#16 + 2#16 = v.gen .sp - 4#16 := by bv_omega
  have h2 : v.gen .sp - 6#16 + 4#16 = v.gen .sp - 2#16 := by bv_omega
  refine ⟨?_, ?_, ?_⟩
  · rw [View.top, hsp, hss, View.load16_enter]
    exact hret
  · rw [View.top_drop, hsp, hss, h4, View.load16_enter]
    exact hcs
  · rw [View.top_drop_drop, hsp, hss, h2, View.load16_enter]
    exact hflags

end Entry

theorem State.flags_interruptReturn (s : State) :
    s.interruptReturn.regs.flags =
      flagsRule s.cfg.flagsAlwaysSet (s.view.drop.drop.top s.cfg) := by
  have hfl : s.pop.2.pop.2.pop.1 = s.view.drop.drop.top s.cfg := by
    rw [State.fst_pop_pop, State.view_pop]
    rfl
  rw [← hfl]
  rfl

/-- The return pops what the entry pushed; FLAGS, saved before the entry cleared IF and TF, passes
the write rule unchanged. -/
theorem interruptReturn_undoes_interrupt {s : State} (h : CpuOk s) (n : Byte) (ret : Word)
    (hw : ∀ k : Nat, k < 6 →
      writable s.cfg (linear s.cfg s.regs.ss (s.regs.sp - BitVec.ofNat 16 (k + 1))) = true) :
    (s.interrupt n ret).interruptReturn.regs = { s.regs with ip := ret } := by
  obtain ⟨hret, hcs, hflags⟩ := s.view.enter_tops s.cfg s.regs.flags ret n hw
  have hgen := s.view.gen_enter s.cfg s.regs.flags ret n
  have hcfg := s.cfg_interrupt n ret
  have hreturn := State.view_interruptReturn (s := s.interrupt n ret) (by rw [hcfg]; exact h.1)
  have hword := State.flags_interruptReturn (s.interrupt n ret)
  rw [State.view_interrupt h.1 h.2.1, hcfg] at hreturn hword
  rw [hflags, flagsRule_eq_self h.2.2] at hword
  rw [hret, hcs, hflags] at hreturn
  refine Shows.regs_eq ⟨rfl, .of_flags hword, by simp [Keeps]⟩ ?_ ?_ ?_ ?_
  · rw [hreturn]
    funext r
    refine (View.gen_drop_drop_drop _ r).trans ?_
    rw [hgen, hgen]
    by_cases hr : r = .sp <;> simp [hr]
  · rw [hreturn]
    funext r
    cases r <;> rfl
  · rw [hreturn]
    rfl
  · rw [hreturn]

/-- Settles O49: the entry by its view, the return by what it pops. -/
theorem interruptReturnRestores : Obligations.InterruptReturnRestores := by
  unfold Obligations.InterruptReturnRestores
  intro s n h hw
  have hview := State.view_interrupt h.1 h.2.1 n (past s [0xCD#8, n])
  refine ⟨_, _, rfl, fun r => ?_, fun r hr => ?_, fun f => ?_, rfl,
    interruptReturn_undoes_interrupt h n _ hw⟩
  · exact (congrArg (fun v => v.gen r) hview).trans (View.gen_enter ..)
  · exact (congrArg (fun v => v.seg r) hview).trans (View.seg_enter _ _ _ _ _ hr)
  · exact (congrArg (fun v => v.flag f) hview).trans (View.flag_enter ..)

end Sys2Proof.Machine
end

section
/-! What every instruction leaves alone (60_exceptions.md R402; 10_state.md R33, R37): the shared
operations by what they keep, then the instructions by the operations they are made of. -/

namespace Sys2Proof.Machine

/-- What a frame statement speaks of: the bookkeeping that no instruction changes, the devices, CS
and the control flags. -/
structure Frame where
  log : List LogEntry
  faultStatus : Bool
  cfg : Config
  schedule : List HostCall
  hostReply : Option Byte
  pit : Pit
  pic : Pic
  cs : Word
  tf : Bool
  ifl : Bool
  df : Bool

/-- The frame of a state. -/
def State.frame (s : State) : Frame where
  log := s.log
  faultStatus := s.faultStatus
  cfg := s.cfg
  schedule := s.schedule
  hostReply := s.hostReply
  pit := s.pit
  pic := s.pic
  cs := s.regs.cs
  tf := s.flag .tf
  ifl := s.flag .ifl
  df := s.flag .df

/-! ## Registers, memory, the stack and ports -/

@[simp] theorem State.frame_setR16 (s : State) (r : Reg16) (v : Word) :
    (s.setR16 r v).frame = s.frame := by cases r <;> rfl

@[simp] theorem State.frame_setR8 (s : State) (r : Reg8) (v : Byte) :
    (s.setR8 r v).frame = s.frame := State.frame_setR16 s _ _

@[simp] theorem State.frame_setSreg (s : State) (r : SReg) (v : Word) :
    (s.setSreg r v).frame = { s.frame with cs := if r = .cs then v else s.frame.cs } := by
  cases r <;> rfl

@[simp] theorem State.frame_setIp (s : State) (v : Word) : (s.setIp v).frame = s.frame := rfl

@[simp] theorem State.frame_advance (s : State) (i : Instr) : (s.advance i).frame = s.frame := rfl

@[simp] theorem State.frame_jumpIf (s : State) (b : Bool) (i : Instr) (d : Byte) :
    (s.jumpIf b i d).frame = s.frame := by cases b <;> rfl

@[simp] theorem State.frame_countCx (s : State) : s.countCx.frame = s.frame := rfl

@[simp] theorem State.frame_takePrefix (s : State) (r : SReg) :
    (s.takePrefix r).frame = s.frame := rfl

@[simp] theorem State.frame_memWrite (s : State) (a : Nat) (v : Byte) :
    (s.memWrite a v).frame = s.frame := by
  unfold State.memWrite
  split <;> rfl

@[simp] theorem State.frame_writeMem8 (s : State) (g o : Word) (v : Byte) :
    (s.writeMem8 g o v).frame = s.frame := State.frame_memWrite s _ v

@[simp] theorem State.frame_writeMem16 (s : State) (g o v : Word) :
    (s.writeMem16 g o v).frame = s.frame := by simp [State.writeMem16]

@[simp] theorem State.frame_put8 (s : State) (l : Loc8) (v : Byte) :
    (s.put8 l v).frame = s.frame := by cases l <;> simp [State.put8]

@[simp] theorem State.frame_put16 (s : State) (l : Loc16) (v : Word) :
    (s.put16 l v).frame = s.frame := by cases l <;> simp [State.put16]

@[simp] theorem State.frame_push (s : State) (v : Word) : (s.push v).frame = s.frame := by
  simp [State.push]

@[simp] theorem State.frame_pop (s : State) : s.pop.2.frame = s.frame := State.frame_setR16 s _ _

@[simp] theorem State.frame_ioByteRead (s : State) (p : Word) :
    (s.ioByteRead p).2.frame = { s.frame with pit := (s.ioByteRead p).2.pit } := by
  simp [State.frame]

@[simp] theorem State.frame_ioWordRead (s : State) (p : Word) :
    (s.ioWordRead p).2.frame = { s.frame with pit := (s.ioWordRead p).2.pit } := by
  simp [State.frame]

@[simp] theorem State.frame_ioByteWrite (s : State) (p : Word) (v : Byte) :
    (s.ioByteWrite p v).frame =
      { s.frame with pit := (s.ioByteWrite p v).pit, pic := (s.ioByteWrite p v).pic } := by
  simp [State.frame]

@[simp] theorem State.frame_ioWordWrite (s : State) (p v : Word) :
    (s.ioWordWrite p v).frame =
      { s.frame with pit := (s.ioWordWrite p v).pit, pic := (s.ioWordWrite p v).pic } := by
  simp [State.frame]

/-! ## FLAGS -/

/-- From `v` to `u` TF, IF and DF are kept. -/
def ControlKept (v u : Word) : Prop := ∀ f ∈ [Flag.tf, .ifl, .df], getFlag f u = getFlag f v

/-- A computation that gives the control flags no value keeps them. -/
theorem ControlKept.of_getD {v u : Word} {g : Flag → Option Bool}
    (hu : ∀ f, getFlag f u = (g f).getD (getFlag f v))
    (hg : g .tf = none ∧ g .ifl = none ∧ g .df = none) : ControlKept v u := by
  obtain ⟨htf, hif, hdf⟩ := hg
  intro f hf
  rw [hu f]
  simp only [List.mem_cons, List.not_mem_nil, or_false] at hf
  rcases hf with rfl | rfl | rfl <;> simp [htf, hif, hdf]

section Flags

variable {s : State} (h : s.cfg.wf = true)
include h

theorem State.frame_setFlags (v : Word) :
    (s.setFlags v).frame =
      { s.frame with tf := getFlag .tf v, ifl := getFlag .ifl v, df := getFlag .df v } := by
  simp [State.frame, State.setFlags, getFlag_flagsRule_wf h]

theorem State.frame_setFlag (f : Flag) (b : Bool) :
    (s.setFlag f b).frame =
      { s.frame with
        tf := if .tf = f then b else s.frame.tf
        ifl := if .ifl = f then b else s.frame.ifl
        df := if .df = f then b else s.frame.df } := by
  rw [State.setFlag, State.frame_setFlags h]
  simp only [getFlag_putFlag_wf h]
  rfl

/-- A write of FLAGS that keeps the control flags, after what keeps the frame. -/
theorem State.frame_setFlags_of_kept {t : State} {v : Word} (ht : t.frame = s.frame)
    (hv : ControlKept s.regs.flags v) : (t.setFlags v).frame = s.frame := by
  have hcfg : t.cfg = s.cfg := congrArg Frame.cfg ht
  rw [State.frame_setFlags (by rw [hcfg]; exact h), ht, hv .tf (by simp), hv .ifl (by simp),
    hv .df (by simp)]
  rfl

theorem ControlKept.alu {w : Nat} (hw : 5 ≤ w) (k : AluOp) (a b : BitVec w) (v : Word) :
    ControlKept v (aluFlags s.cfg.flagsAlwaysSet k a b v) :=
  .of_getD (getFlag_aluFlags h hw k a b v) (by cases k <;> exact ⟨rfl, rfl, rfl⟩)

theorem ControlKept.shift {w : Nat} (k : ShiftOp) (n : Nat) (x r : BitVec w) (out : Bool) (d : Nat)
    (v : Word) : ControlKept v (shiftFlags s.cfg.flagsAlwaysSet k n x r out d v) :=
  .of_getD (getFlag_shiftFlags_eq h k n x r out d v) (by cases k <;> exact ⟨rfl, rfl, rfl⟩)

@[simp] theorem State.frame_test {w : Nat} (a b : BitVec w) : (s.test a b).frame = s.frame :=
  s.frame_setFlags_of_kept h rfl (.of_getD (getFlag_logicFlags_eq h _ _) ⟨rfl, rfl, rfl⟩)

@[simp] theorem State.frame_alu8 (k : AluOp) (l : Loc8) (a b : Byte) :
    (s.alu8 k l a b).frame = s.frame := by
  refine s.frame_setFlags_of_kept h ?_ (.alu h (by decide) k a b _)
  split
  · exact s.frame_put8 l _
  · rfl

@[simp] theorem State.frame_alu16 (k : AluOp) (l : Loc16) (a b : Word) :
    (s.alu16 k l a b).frame = s.frame := by
  refine s.frame_setFlags_of_kept h ?_ (.alu h (by decide) k a b _)
  split
  · exact s.frame_put16 l _
  · rfl

@[simp] theorem State.frame_inc8 (l : Loc8) : (s.inc8 l).frame = s.frame :=
  s.frame_setFlags_of_kept h (s.frame_put8 l _)
    (.of_getD (getFlag_incFlags h (by decide) _ _) ⟨rfl, rfl, rfl⟩)

@[simp] theorem State.frame_inc16 (l : Loc16) : (s.inc16 l).frame = s.frame :=
  s.frame_setFlags_of_kept h (s.frame_put16 l _)
    (.of_getD (getFlag_incFlags h (by decide) _ _) ⟨rfl, rfl, rfl⟩)

@[simp] theorem State.frame_dec8 (l : Loc8) : (s.dec8 l).frame = s.frame :=
  s.frame_setFlags_of_kept h (s.frame_put8 l _)
    (.of_getD (getFlag_decFlags h (by decide) _ _) ⟨rfl, rfl, rfl⟩)

@[simp] theorem State.frame_dec16 (l : Loc16) : (s.dec16 l).frame = s.frame :=
  s.frame_setFlags_of_kept h (s.frame_put16 l _)
    (.of_getD (getFlag_decFlags h (by decide) _ _) ⟨rfl, rfl, rfl⟩)

@[simp] theorem State.frame_neg8 (l : Loc8) : (s.neg8 l).frame = s.frame :=
  s.frame_setFlags_of_kept h (s.frame_put8 l _)
    (.of_getD (getFlag_subFlags_eq h (by decide) _ _ _ _) ⟨rfl, rfl, rfl⟩)

@[simp] theorem State.frame_neg16 (l : Loc16) : (s.neg16 l).frame = s.frame :=
  s.frame_setFlags_of_kept h (s.frame_put16 l _)
    (.of_getD (getFlag_subFlags_eq h (by decide) _ _ _ _) ⟨rfl, rfl, rfl⟩)

@[simp] theorem State.frame_shift8 (k : ShiftOp) (n : Nat) (e : Ea8) :
    (s.shift8 k n e).frame = s.frame := by
  unfold State.shift8
  split
  · rfl
  · exact s.frame_setFlags_of_kept (t := s.put8 _ _) h (s.frame_put8 _ _)
      (.shift h k n _ _ _ _ _)

@[simp] theorem State.frame_shift16 (k : ShiftOp) (n : Nat) (e : Ea16) :
    (s.shift16 k n e).frame = s.frame := by
  unfold State.shift16
  split
  · rfl
  · exact s.frame_setFlags_of_kept (t := s.put16 _ _) h (s.frame_put16 _ _)
      (.shift h k n _ _ _ _ _)

/-- An entry loads CS and clears TF and IF (60_exceptions.md R410). -/
theorem State.frame_interrupt (n : Byte) (ret : Word) :
    (s.interrupt n ret).frame =
      { s.frame with cs := (s.interrupt n ret).regs.cs, tf := false, ifl := false } := by
  have hcs : (s.interrupt n ret).regs.cs = (s.interrupt n ret).frame.cs := rfl
  rw [hcs]
  have h1 : (s.push s.flags).cfg.wf = true := by rwa [State.cfg_push]
  have h2 : ((s.push s.flags).setFlag .ifl false).cfg.wf = true := h1
  simp only [State.interrupt, State.frame_setSreg, State.frame_setIp, State.frame_push,
    State.frame_setFlag h2, State.frame_setFlag h1]
  rfl

end Flags

/-- A return from an interrupt loads CS and FLAGS (60_exceptions.md R413). -/
theorem State.frame_interruptReturn (s : State) :
    s.interruptReturn.frame =
      { s.frame with
        cs := s.interruptReturn.regs.cs
        tf := s.interruptReturn.flag .tf
        ifl := s.interruptReturn.flag .ifl
        df := s.interruptReturn.flag .df } := by
  simp [State.frame]

/-! ## One instruction (60_exceptions.md R402) -/

/-- What an instruction may change of its frame: IN and OUT the devices, far transfers and
interrupts CS, and a control flag the instructions that name it. -/
def FrameRule (i : Instr) (a b : Frame) : Prop :=
  b.log = a.log ∧ b.faultStatus = a.faultStatus ∧ b.cfg = a.cfg ∧ b.schedule = a.schedule ∧
    b.hostReply = a.hostReply ∧
    (b.pit = a.pit ∨ i ∈ [.inAlDx, .inAxDx, .outDxAl, .outDxAx] ∨
      ∃ p, i ∈ [.inAlIb p, .inAxIb p, .outIbAl p, .outIbAx p]) ∧
    (b.pic = a.pic ∨ i ∈ [.outDxAl, .outDxAx] ∨ ∃ p, i ∈ [.outIbAl p, .outIbAx p]) ∧
    (b.cs = a.cs ∨ i ∈ [.retf, .int3, .into, .iret] ∨
      (∃ x y, i ∈ [.callAp x y, .jmpAp x y]) ∨ (∃ w, i = .retfIw w) ∨ ∃ n, i = .intIb n) ∧
    (b.tf = a.tf ∨ i ∈ [.popf, .iret, .int3, .into] ∨ ∃ n, i = .intIb n) ∧
    (b.ifl = a.ifl ∨ i ∈ [.popf, .iret, .int3, .into, .cli, .sti] ∨ ∃ n, i = .intIb n) ∧
    (b.df = a.df ∨ i ∈ [.popf, .iret, .cld, .std])

theorem FrameRule.of_eq {i : Instr} {a b : Frame} (h : b = a) : FrameRule i a b := by
  subst h
  exact ⟨rfl, rfl, rfl, rfl, rfl, .inl rfl, .inl rfl, .inl rfl, .inl rfl, .inl rfl, .inl rfl⟩

/-- Every instruction completes within its frame: the named cases change something of it, or would
change CS with another operand; the last one is the instructions whose operations all keep it. -/
theorem frameRule_exec {i : Instr} {s : State} (hi : i.wf = true) (hc : s.cfg.wf = true) :
    ∃ t, exec i s = .next t ∧ FrameRule i s.frame t.frame := by
  cases i with
  | movSwEw r e =>
    have hr : r ≠ .cs := by
      rintro rfl
      cases hi
    exact ⟨_, rfl, .of_eq (by simp [hr])⟩
  | inAlIb | inAlDx =>
    exact ⟨((s.ioByteRead _).2.setR8 .al _).advance _, rfl, by simp [FrameRule]⟩
  | inAxIb | inAxDx =>
    exact ⟨((s.ioWordRead _).2.setR16 .ax _).advance _, rfl, by simp [FrameRule]⟩
  | outIbAl | outDxAl | outIbAx | outDxAx | callAp | jmpAp | retf | retfIw =>
    exact ⟨_, rfl, by simp [FrameRule]⟩
  | int3 | intIb => exact ⟨_, rfl, by simp [FrameRule, State.frame_interrupt hc]⟩
  | into =>
    refine ⟨_, rfl, ?_⟩
    split
    · simp [FrameRule, State.frame_interrupt hc]
    · exact .of_eq rfl
  | iret => exact ⟨_, rfl, by simp [FrameRule, State.frame_interruptReturn]⟩
  | popf => exact ⟨_, rfl, by simp [FrameRule, State.frame_setFlags, hc]⟩
  | cmc | clc | stc | cli | sti | cld | std =>
    exact ⟨_, rfl, by simp [FrameRule, State.frame_setFlag hc]⟩
  | _ => exact ⟨_, rfl, .of_eq (by simp [hc])⟩

/-- Settles O22: `FrameRule` is the statement, on frames. -/
theorem everyInstructionFrame : Obligations.EveryInstructionFrame := by
  unfold Obligations.EveryInstructionFrame
  exact fun i s hi hc => frameRule_exec hi hc

end Sys2Proof.Machine
end

section
/-! Words written out from the encodings (30_encoding.md sections 3 and 5; 95_test_vectors.md V1 to
V4), decoded. -/

namespace Sys2Proof

/-- Settles O9: each word is a closed list of bytes, so the decoder runs on it. -/
theorem writtenWordsDecode : Obligations.WrittenWordsDecode := by
  unfold Obligations.WrittenWordsDecode
  exact ⟨rfl, rfl, rfl, rfl, rfl, rfl, rfl, rfl, rfl, rfl⟩

end Sys2Proof
end
